-- ==== Sys2Proof/Word.lean ====
section
/-! DEFINITION. The word types of the machine (00_scope.md R4, 30_encoding.md R61). -/

namespace Sys2Proof

/-- A byte of memory or a general register: 8 bits (R11, R40). -/
abbrev Byte := BitVec 8

/-- An instruction word, `I`, `PC`, a stack entry, a key vector: 16 bits (R13, R14, R16, R26, R60). -/
abbrev Word := BitVec 16

/-- A 4-bit field: a register number, a sprite height, a key number (R61). -/
abbrev Nibble := BitVec 4

/-- The 12-bit address immediate `NNN` (R61). -/
abbrev Addr12 := BitVec 12

/-- One row of the frame buffer: 64 one-bit pixels, bit `x` being column `x` (R24; log 15). -/
abbrev PixelRow := BitVec 64

end Sys2Proof
end

