-- ==== Sys2Proof/Syntax.lean ====
section
/-! DEFINITION. The 35 instructions of base CHIP-8, one constructor per row of spec/opcode_table.json (R64). -/

namespace Sys2Proof

/-- An instruction (30_encoding.md R64). Operands are the fields of R61: `x`, `y` register numbers, `n` the low nibble,
`nn` the low byte, `nnn` the 12-bit address. `low` in `seReg` and `sneReg` is the low nibble that decode ignores
(R64, R68), kept so that an instruction is its word (log 17). -/
inductive Instr where
  /-- 0NNN `SYS addr`, R80. -/
  | sys (nnn : Addr12)
  /-- 00E0 `CLS`, R131. -/
  | cls
  /-- 00EE `RET`, R81. -/
  | ret
  /-- 1NNN `JP addr`, R82. -/
  | jp (nnn : Addr12)
  /-- 2NNN `CALL addr`, R83. -/
  | call (nnn : Addr12)
  /-- 3XNN `SE Vx, byte`, R84. -/
  | seImm (x : Nibble) (nn : Byte)
  /-- 4XNN `SNE Vx, byte`, R85. -/
  | sneImm (x : Nibble) (nn : Byte)
  /-- 5XYn `SE Vx, Vy`, R86. -/
  | seReg (x y low : Nibble)
  /-- 6XNN `LD Vx, byte`, R100. -/
  | ldImm (x : Nibble) (nn : Byte)
  /-- 7XNN `ADD Vx, byte`, R101. -/
  | addImm (x : Nibble) (nn : Byte)
  /-- 8XY0 `LD Vx, Vy`, R102. -/
  | ldReg (x y : Nibble)
  /-- 8XY1 `OR Vx, Vy`, R103. -/
  | or (x y : Nibble)
  /-- 8XY2 `AND Vx, Vy`, R104. -/
  | and (x y : Nibble)
  /-- 8XY3 `XOR Vx, Vy`, R105. -/
  | xor (x y : Nibble)
  /-- 8XY4 `ADD Vx, Vy`, R106. -/
  | addReg (x y : Nibble)
  /-- 8XY5 `SUB Vx, Vy`, R107. -/
  | sub (x y : Nibble)
  /-- 8XY6 `SHR Vx, Vy`, R108. -/
  | shr (x y : Nibble)
  /-- 8XY7 `SUBN Vx, Vy`, R109. -/
  | subn (x y : Nibble)
  /-- 8XYE `SHL Vx, Vy`, R110. -/
  | shl (x y : Nibble)
  /-- 9XYn `SNE Vx, Vy`, R87. -/
  | sneReg (x y low : Nibble)
  /-- ANNN `LD I, addr`, R120. -/
  | ldI (nnn : Addr12)
  /-- BNNN `JP V0, addr`, R88. -/
  | jpV0 (nnn : Addr12)
  /-- CXNN `RND Vx, byte`, R111. -/
  | rnd (x : Nibble) (nn : Byte)
  /-- DXYN `DRW Vx, Vy, nibble`, R130. -/
  | drw (x y n : Nibble)
  /-- EX9E `SKP Vx`, R140. -/
  | skp (x : Nibble)
  /-- EXA1 `SKNP Vx`, R141. -/
  | sknp (x : Nibble)
  /-- FX07 `LD Vx, DT`, R150. -/
  | ldVxDt (x : Nibble)
  /-- FX0A `LD Vx, K`, R142. -/
  | ldVxK (x : Nibble)
  /-- FX15 `LD DT, Vx`, R151. -/
  | ldDtVx (x : Nibble)
  /-- FX18 `LD ST, Vx`, R152. -/
  | ldStVx (x : Nibble)
  /-- FX1E `ADD I, Vx`, R121. -/
  | addI (x : Nibble)
  /-- FX29 `LD F, Vx`, R122. -/
  | ldF (x : Nibble)
  /-- FX33 `LD B, Vx`, R123. -/
  | ldB (x : Nibble)
  /-- FX55 `LD [I], Vx`, R124. -/
  | ldStore (x : Nibble)
  /-- FX65 `LD Vx, [I]`, R125. -/
  | ldLoad (x : Nibble)
deriving DecidableEq, Repr

end Sys2Proof
end

