-- ==== Sys2Proof/Config.lean ====
section
/-! DEFINITION. What is fixed for this hardware (R4), the parameters a chip may set otherwise (R5), and the values
that come from outside under no law (R182, R184). -/

namespace Sys2Proof

/-! ### Fixed parameters (R4) -/

/-- `MEM_SIZE`: addresses 0x000 to 0xFFF. -/
def memSize : Nat := 4096
/-- `FONT_BASE`. -/
def fontBase : Nat := 0x000
/-- `FONT_STRIDE`: bytes per glyph. -/
def fontStride : Nat := 5
/-- `PROG_BASE`: the reset value of `PC`. -/
def progBase : Word := 0x200
/-- `STACK_DEPTH`. -/
def stackDepth : Nat := 24
/-- `FB_W`: pixels in a row. -/
def fbWidth : Nat := 64
/-- `FB_H`: rows of the frame buffer. -/
def fbHeight : Nat := 32
/-- `NKEYS`. -/
def nKeys : Nat := 16

/-! ### Parameters with a default (R5) -/

/-- `KEY_PICK` (R5, R142): which newly pressed key FX0A stores. `lowest` is the default; `chosen` stands for every
other function a chip may use (log 9). -/
inductive KeyPick where
  | lowest
  | chosen
deriving DecidableEq, Repr

/-- The parameters of R5 that have a default. A chip fixes them once; no event changes them (log 7). -/
structure Params where
  /-- `SYS_IS_NOP`: true makes 0NNN only advance `PC` (R80). -/
  sysIsNop : Bool
  /-- `SHIFT_USES_VY`: true makes SHR and SHL shift `VY` into `VX` (R108, R110). -/
  shiftUsesVy : Bool
  /-- `LOGIC_RESETS_VF`: true makes OR, AND and XOR also clear `VF` (R103 to R105). -/
  logicResetsVf : Bool
  /-- `LDST_INCREMENTS_I`: true makes FX55 and FX65 leave `I = I + X + 1` (R124, R125). -/
  ldstIncrementsI : Bool
  /-- `KEY_PICK` (R142). -/
  keyPick : KeyPick
deriving DecidableEq, Repr

/-- The defaults of R5. -/
def Params.default : Params where
  sysIsNop := false
  shiftUsesVy := false
  logicResetsVf := false
  ldstIncrementsI := false
  keyPick := .lowest

/-! ### Open values: no body, so that no proof can see one -/

/-- Stands behind `prescaleDiv`. -/
opaque Config.prescaleDivPred : Nat

/-- `PRESCALE_DIV`: a positive integer, OPEN (R5, D3; log 8). -/
def Config.prescaleDiv : Nat := Config.prescaleDivPred + 1

/-- The `key_in` vector of the `n`-th event when the driver's `Cycle` is not listed in `State.pending`: any value
(R182; log 3). -/
opaque Config.freeKeyIn : Nat → Word

/-- The `rnd_in` byte of the `n`-th event when the driver's `Cycle` is not listed in `State.pending`: any value
(R184; log 3). -/
opaque Config.freeRndIn : Nat → Byte

/-- A chip's own `KEY_PICK`, when it is not the default: any function of the newly pressed keys (R5; log 9). -/
opaque Config.chosenKey : Word → Nibble

end Sys2Proof
end

