-- ==== Sys2Proof/Machine/State.lean ====
section
/-! DEFINITION. The state of the core (10_state.md R10), the events that change it (00_scope.md R2), the reasons a
step can stop, and the state after reset (R191). -/

namespace Sys2Proof.Machine

/-- `MEM` (R29): the bytes that differ from what an unlisted address reads as, by strictly rising address (log 14). -/
abbrev Memory := List Host.Cell

/-- `V0`..`VF` (R11). -/
abbrev Registers := Vector Byte 16

/-- `FB` (R24): 32 rows of 64 pixels. -/
abbrev FrameBuffer := Vector PixelRow 32

/-- `FAULT` (R30): running, or the kind of fault that halted the core. -/
inductive FaultKind where
  | running
  | unknownInstruction
  | stackOverflow
  | stackUnderflow
  | addressOutOfRange
deriving DecidableEq, Repr

/-- An event from outside the core (R2). `Tick` is derived from `timebasePulse` (R176) and has no constructor
(log 20). -/
inductive Event where
  /-- `Reset` (R190). -/
  | reset
  /-- `Load(addr, bytes)` (R192). -/
  | load (addr : Nat) (bytes : List Byte)
  /-- `Cycle(key_in, rnd_in)` (R3). -/
  | cycle (keyIn : Word) (rndIn : Byte)
  /-- `TimebasePulse` (R176). -/
  | timebasePulse
  /-- `DirtyClear` (R181). -/
  | dirtyClear
deriving DecidableEq, Repr

/-- The whole state: the fifteen elements of R10, then the model's own fields. -/
structure State where
  /-- `MEM` (R29). -/
  mem : Memory
  /-- `V0`..`VF` (R11). -/
  v : Registers
  /-- `I`, the index register (R13). -/
  i : Word
  /-- `PC` (R14). -/
  pc : Word
  /-- `STACK` (R16). -/
  stack : Vector Word 24
  /-- `SP`, the number of return addresses on the stack, 0 to 24 (R17). -/
  sp : Fin 25
  /-- `DT`, the delay timer (R22). -/
  dt : Byte
  /-- `ST`, the sound timer (R23). -/
  st : Byte
  /-- `FB` (R24). -/
  fb : FrameBuffer
  /-- `DIRTY` (R25). -/
  dirty : Bool
  /-- `KEY`, bit `k` being key `k` (R26). -/
  key : Word
  /-- `KEYPREV` (R27). -/
  keyPrev : Word
  /-- `PRESC` (R28). -/
  presc : Nat
  /-- `FAULT` (R30). -/
  fault : FaultKind
  /-- `FAULT_INFO` (R31). -/
  faultInfo : Word
  /-- The chip's parameters (R5): the model's own field, no event changes it (log 7). -/
  params : Params
  /-- The events to come, oldest first: the model's own field (R2; log 1). -/
  pending : List Event
  /-- How many free inputs were drawn: the model's own field (log 3). -/
  freeInputs : Nat
  /-- `rnd_in` of the current cycle (R184): the model's own field, set by a cycle before it is read (log 4). -/
  rndIn : Byte
  /-- Whether `Load` is still permitted, that is, no cycle came since reset (R192): the model's own field (log 5). -/
  loadOpen : Bool
deriving DecidableEq, Repr

/-- Reasons for `Outcome.fault`: none. The four faults of R160 are entries into the halted state that R165 describes,
so they are next states with `FAULT` and `FAULT_INFO` written (log 10). -/
inductive Fault where
deriving DecidableEq, Repr

/-- Reasons for `Outcome.refused`. -/
inductive Refusal where
  /-- Raised by an arm of `exec` for an instruction that has no meaning yet; no arm is so. Safe: the model stops. -/
  | notModelled (mnemonic : String)
  /-- Raised by the event `load` after the first cycle of a running core, which is no move of the machine (R192, U19;
  log 5). Safe: the model stops. -/
  | loadAfterFirstCycle
deriving DecidableEq, Repr

/-- What an event or an instruction answers. -/
abbrev Result := Host.Outcome State Fault Refusal

/-- The state right after `Reset` (R191): `PC` = 0x200, every other element zero. -/
def State.reset : State where
  mem := []
  v := Vector.replicate 16 0
  i := 0
  pc := progBase
  stack := Vector.replicate 24 0
  sp := 0
  dt := 0
  st := 0
  fb := Vector.replicate 32 0
  dirty := false
  key := 0
  keyPrev := 0
  presc := 0
  fault := .running
  faultInfo := 0
  params := Params.default
  pending := []
  freeInputs := 0
  rndIn := 0
  loadOpen := true

end Sys2Proof.Machine
end

