-- ==== Sys2Proof/Machine/Ops.lean ====
section
/-! DEFINITION. The named operations over memory, registers, stack and program counter, and the one way a fault is
taken. -/

namespace Sys2Proof.Machine

/-! ### Memory (R29, R40) -/

/-- What an address that is not listed reads as: memory is zero at reset (R32; log 14). -/
def Memory.unlisted : Byte := 0

/-- The byte at address `a`. -/
def Memory.read : Memory → Nat → Byte
  | [], _ => Memory.unlisted
  | (a', b) :: m, a => if a' = a then b else Memory.read m a

/-- Put byte `b` at address `a`, keeping the canonical form. -/
def Memory.write : Memory → Nat → Byte → Memory
  | [], a, b => if b = Memory.unlisted then [] else [(a, b)]
  | (a', b') :: m, a, b =>
    if a < a' then (if b = Memory.unlisted then (a', b') :: m else (a, b) :: (a', b') :: m)
    else if a' = a then (if b = Memory.unlisted then m else (a, b) :: m)
    else (a', b') :: Memory.write m a b

/-- Put the bytes `bs` at `a`, `a + 1`, ... in this order (R123, R124, R192). -/
def Memory.writeBytes (m : Memory) (a : Nat) : List Byte → Memory
  | [] => m
  | b :: bs => Memory.writeBytes (m.write a b) (a + 1) bs

/-- The entries rise strictly from `lo`, lie below `MEM_SIZE`, and none is what an unlisted address reads as. -/
def Memory.sortedFrom (lo : Nat) : Memory → Bool
  | [] => true
  | (a, b) :: m => decide (lo ≤ a) && decide (a < memSize) && (b != Memory.unlisted) && Memory.sortedFrom (a + 1) m

/-- The canonical form of memory: equal memories are equal lists. -/
def Memory.wf (m : Memory) : Bool := Memory.sortedFrom 0 m

/-- The address decoder (R43, R126) for the `n` bytes from `base`: `none` when all lie in 0x000..0xFFF (or there are
none), else the lowest address out of range, taken to 16 bits. -/
def rangeError (base n : Nat) : Option Word :=
  if n = 0 ∨ base + n ≤ memSize then none else some (BitVec.ofNat 16 (max base memSize))

/-! ### Registers (R11, R12) -/

/-- `V[r]`. -/
def State.getV (s : State) (r : Nibble) : Byte := s.v[r.toNat]'r.isLt

/-- `V[r] <- b`. -/
def State.setV (r : Nibble) (b : Byte) (s : State) : State := { s with v := s.v.set r.toNat b r.isLt }

/-- `I <- a`. -/
def State.setI (a : Word) (s : State) : State := { s with i := a }

/-- `MEM` replaced. -/
def State.setMem (m : Memory) (s : State) : State := { s with mem := m }

/-! ### Program counter (R14, R15) -/

/-- `PC <- PC + 2`. -/
def State.advance (s : State) : State := { s with pc := s.pc + 2 }

/-- `PC <- PC + 4` if `c`, else `PC <- PC + 2`. -/
def State.skipIf (c : Bool) (s : State) : State := { s with pc := if c then s.pc + 4 else s.pc + 2 }

/-- `PC <- a`. -/
def State.jump (a : Word) (s : State) : State := { s with pc := a }

/-! ### Call stack (R16, R17, R20, R21) -/

/-- `Push(a)`: `none` when the stack is full. -/
def State.push (a : Word) (s : State) : Option State :=
  if h : s.sp.val < stackDepth then
    some { s with stack := s.stack.set s.sp.val a h, sp := ⟨s.sp.val + 1, Nat.succ_lt_succ h⟩ }
  else none

/-- `Pop()`: the address on top and the state without it, `none` when the stack is empty. The entry stays in the
array. -/
def State.pop (s : State) : Option (Word × State) :=
  if h : s.sp.val = 0 then none
  else
    have lt : s.sp.val - 1 < 24 := by have := s.sp.isLt; omega
    some (s.stack[s.sp.val - 1]'lt, { s with sp := ⟨s.sp.val - 1, by omega⟩ })

/-! ### Faults (R165, R166) -/

/-- Whether `FAULT ≠ 0` (R183 `halted`). -/
def State.halted (s : State) : Bool := s.fault != .running

/-- An event while the core runs: `f`. A halted core stays as it is (R30, R166). -/
def State.whileRunning (f : State → State) (s : State) : State := if s.halted then s else f s

/-- What `raise F(info)` does to the state (R165): `FAULT` and `FAULT_INFO` are written and nothing else. Control goes
nowhere: no vector, no saved `PC`, no mode. There is no return from a fault (R167); only `State.resetCore` leaves the
halted state. -/
def State.raise (k : FaultKind) (info : Word) (s : State) : State := { s with fault := k, faultInfo := info }

/-- Take a fault: the next state is the halted one. -/
def raiseFault (k : FaultKind) (info : Word) (s : State) : Result := .next (s.raise k info)

/-- `Reset` (R190): every element of R10 takes its reset value, whatever the state was. The chip's parameters, the
events to come and the count of free inputs are not elements of the core and stay (log 12). -/
def State.resetCore (s : State) : State :=
  { State.reset with params := s.params, pending := s.pending, freeInputs := s.freeInputs }

/-- Guard an instruction that touches the `n` bytes from `I` (R43, R126): the check comes before any change of state. -/
def withRange (n : Nat) (s : State) (body : State) : Result :=
  match rangeError s.i.toNat n with
  | some bad => raiseFault .addressOutOfRange bad s
  | none => .next body

end Sys2Proof.Machine
end

