-- ==== Sys2Proof/Machine/Operands.lean ====
section
/-! DEFINITION. The operand forms: immediates, register operands, the shift operand, key numbers, addresses through
`I`, the register range of FX55 and FX65, glyph addresses. -/

namespace Sys2Proof.Machine

/-- `zext_16(NNN)` (R63). -/
def zextAddr (nnn : Addr12) : Word := nnn.setWidth 16

/-- `zext_16(V[x])` (R88, R121). -/
def zextByte (b : Byte) : Word := b.setWidth 16

/-- The low nibble of a register operand: the key number of R140 and R141, the glyph of R122. -/
def lowNibble (b : Byte) : Nibble := b.extractLsb' 0 4

/-- The operand a shift shifts (R108, R110): `VX`, or `VY` when `SHIFT_USES_VY`. -/
def State.shiftOperand (s : State) (x y : Nibble) : Byte := if s.params.shiftUsesVy then s.getV y else s.getV x

/-- How many registers FX55 and FX65 move: `X + 1` (R63). -/
def rangeCount (x : Nibble) : Nat := x.toNat + 1

/-- `V0`..`VX` in register-number order (R124). -/
def State.firstRegisters (s : State) (x : Nibble) : List Byte := s.v.toList.take (rangeCount x)

/-- `V[0] .. V[n-1]` loaded from `base`, `base + 1`, ... in this order (R125). -/
def loadRegisters (m : Memory) (base : Nat) : Nat → Registers → Registers
  | 0, v => v
  | n + 1, v => (loadRegisters m base n v).setIfInBounds n (m.read (base + n))

/-- `I` after FX55 or FX65 (R124, R125): unchanged, or `(I + X + 1)[15:0]` when `LDST_INCREMENTS_I`. -/
def State.indexAfterRange (s : State) (x : Nibble) : Word :=
  if s.params.ldstIncrementsI then s.i + BitVec.ofNat 16 (rangeCount x) else s.i

/-- `FONT_BASE + FONT_STRIDE * V[X][3:0]` (R122). -/
def glyphAddress (b : Byte) : Word := BitVec.ofNat 16 (fontBase + fontStride * (lowNibble b).toNat)

/-- The decimal digits of a byte, most significant first (R123). -/
def bcdDigits (b : Byte) : List Byte :=
  [BitVec.ofNat 8 (b.toNat / 100), BitVec.ofNat 8 (b.toNat / 10 % 10), BitVec.ofNat 8 (b.toNat % 10)]

/-- The keys down now that were up in the previous cycle (R142). -/
def State.newKeys (s : State) : Word := s.key &&& ~~~s.keyPrev

/-- The lowest key of a set (R5, the default of `KEY_PICK`). -/
def lowestKey (keys : Word) : Nibble :=
  BitVec.ofNat 4 (((List.range nKeys).find? fun k => keys.getLsbD k).getD 0)

/-- `KEY_PICK(keys)` (R142): the lowest key, or the chip's own choice among `keys` (log 9). -/
def pickKey (p : KeyPick) (keys : Word) : Nibble :=
  match p with
  | .lowest => lowestKey keys
  | .chosen => if keys.getLsbD (Config.chosenKey keys).toNat then Config.chosenKey keys else lowestKey keys

end Sys2Proof.Machine
end

