-- ==== Sys2Proof/Machine/Flags.lean ====
section
/-! DEFINITION. Every value the machine writes to VF (R12), and the order in which result and flag are written
(R113). -/

namespace Sys2Proof.Machine

/-- A flag as the byte that VF holds: 1 or 0. -/
def flagByte (c : Bool) : Byte := if c then 1 else 0

/-- Bit 8 of the exact sum (R106). -/
def carryOut (a b : Byte) : Bool := decide (a.toNat + b.toNat > 0xFF)

/-- No borrow occurs in `a - b` (R107, R109). -/
def noBorrow (a b : Byte) : Bool := decide (a.toNat ≥ b.toNat)

/-- The bit a right shift shifts out (R108). -/
def shiftedOutRight (a : Byte) : Bool := a.getLsbD 0

/-- The bit a left shift shifts out (R110). -/
def shiftedOutLeft (a : Byte) : Bool := a.getLsbD 7

/-- Write the result to `VX`, then the flag to VF (R113): with `X` = 0xF the flag survives. -/
def State.setResultFlag (x : Nibble) (result : Byte) (flag : Bool) (s : State) : State :=
  (s.setV x result).setV 0xF#4 (flagByte flag)

/-- Write a logical result to `VX`; then `VF <- 0` if `LOGIC_RESETS_VF` (R103 to R105). -/
def State.setLogic (x : Nibble) (result : Byte) (s : State) : State :=
  if s.params.logicResetsVf then (s.setV x result).setV 0xF#4 0 else s.setV x result

end Sys2Proof.Machine
end

