-- ==== Sys2Proof/Machine/Alu.lean ====
section
/-! DEFINITION. Register loads, arithmetic, logic, RND (41_arithmetic_logic.md). Sums and differences are computed
exactly in the naturals and then narrowed to 8 bits (R112). -/

namespace Sys2Proof.Machine

/-- The low 8 bits of the exact sum (R112). -/
def addBytes (a b : Byte) : Byte := BitVec.ofNat 8 (a.toNat + b.toNat)

/-- `(a + 256 - b)[7:0]` (R112). -/
def subBytes (a b : Byte) : Byte := BitVec.ofNat 8 (a.toNat + 256 - b.toNat)

/-- `LD Vx, byte` (R100). -/
def execLdImm (x : Nibble) (nn : Byte) (s : State) : Result := .next (s.setV x nn).advance

/-- `ADD Vx, byte` (R101): VF is not written as a flag. -/
def execAddImm (x : Nibble) (nn : Byte) (s : State) : Result := .next (s.setV x (addBytes (s.getV x) nn)).advance

/-- `LD Vx, Vy` (R102). -/
def execLdReg (x y : Nibble) (s : State) : Result := .next (s.setV x (s.getV y)).advance

/-- `OR Vx, Vy` (R103). -/
def execOr (x y : Nibble) (s : State) : Result := .next (s.setLogic x (s.getV x ||| s.getV y)).advance

/-- `AND Vx, Vy` (R104). -/
def execAnd (x y : Nibble) (s : State) : Result := .next (s.setLogic x (s.getV x &&& s.getV y)).advance

/-- `XOR Vx, Vy` (R105). -/
def execXor (x y : Nibble) (s : State) : Result := .next (s.setLogic x (s.getV x ^^^ s.getV y)).advance

/-- `ADD Vx, Vy` (R106). -/
def execAddReg (x y : Nibble) (s : State) : Result :=
  .next (s.setResultFlag x (addBytes (s.getV x) (s.getV y)) (carryOut (s.getV x) (s.getV y))).advance

/-- `SUB Vx, Vy` (R107). -/
def execSub (x y : Nibble) (s : State) : Result :=
  .next (s.setResultFlag x (subBytes (s.getV x) (s.getV y)) (noBorrow (s.getV x) (s.getV y))).advance

/-- `SHR Vx, Vy` (R108). -/
def execShr (x y : Nibble) (s : State) : Result :=
  .next (s.setResultFlag x (s.shiftOperand x y >>> 1) (shiftedOutRight (s.shiftOperand x y))).advance

/-- `SUBN Vx, Vy` (R109). -/
def execSubn (x y : Nibble) (s : State) : Result :=
  .next (s.setResultFlag x (subBytes (s.getV y) (s.getV x)) (noBorrow (s.getV y) (s.getV x))).advance

/-- `SHL Vx, Vy` (R110). -/
def execShl (x y : Nibble) (s : State) : Result :=
  .next (s.setResultFlag x (s.shiftOperand x y <<< 1) (shiftedOutLeft (s.shiftOperand x y))).advance

/-- `RND Vx, byte` (R111): the random byte is the input of this cycle, under no law. -/
def execRnd (x : Nibble) (nn : Byte) (s : State) : Result := .next (s.setV x (s.rndIn &&& nn)).advance

end Sys2Proof.Machine
end

