-- ==== Sys2Proof/Machine/Control.lean ====
section
/-! DEFINITION. Control flow: SYS, RET, JP, CALL, the four register skips, JP V0 (40_control_flow.md). -/

namespace Sys2Proof.Machine

/-- `SYS addr` (R80): raises UnknownInstruction with its own word, whose high nibble is 0; only advances `PC` when
`SYS_IS_NOP`. -/
def execSys (nnn : Addr12) (s : State) : Result :=
  if s.params.sysIsNop then .next s.advance else raiseFault .unknownInstruction (zextAddr nnn) s

/-- `RET` (R81). -/
def execRet (s : State) : Result :=
  match s.pop with
  | some (target, t) => .next (t.jump target)
  | none => raiseFault .stackUnderflow s.pc s

/-- `JP addr` (R82). -/
def execJp (nnn : Addr12) (s : State) : Result := .next (s.jump (zextAddr nnn))

/-- `CALL addr` (R83). -/
def execCall (nnn : Addr12) (s : State) : Result :=
  match s.push (s.pc + 2) with
  | some t => .next (t.jump (zextAddr nnn))
  | none => raiseFault .stackOverflow s.pc s

/-- `SE Vx, byte` (R84). -/
def execSeImm (x : Nibble) (nn : Byte) (s : State) : Result := .next (s.skipIf (s.getV x == nn))

/-- `SNE Vx, byte` (R85). -/
def execSneImm (x : Nibble) (nn : Byte) (s : State) : Result := .next (s.skipIf (s.getV x != nn))

/-- `SE Vx, Vy` (R86). -/
def execSeReg (x y : Nibble) (s : State) : Result := .next (s.skipIf (s.getV x == s.getV y))

/-- `SNE Vx, Vy` (R87). -/
def execSneReg (x y : Nibble) (s : State) : Result := .next (s.skipIf (s.getV x != s.getV y))

/-- `JP V0, addr` (R88): not masked to 12 bits. -/
def execJpV0 (nnn : Addr12) (s : State) : Result := .next (s.jump (zextAddr nnn + zextByte (s.getV 0)))

end Sys2Proof.Machine
end

