-- ==== Sys2Proof/Machine/Graphics.lean ====
section
/-! DEFINITION. The frame buffer: DRW and CLS (43_graphics.md). -/

namespace Sys2Proof.Machine

/-- `FB[y][x]` (R24): 1 is on. -/
def FrameBuffer.pixel (fb : FrameBuffer) (y : Fin 32) (x : Fin 64) : Bool := fb[y].getLsbD x.val

/-- `FB[y][x] <- FB[y][x] ^ 1`. -/
def FrameBuffer.toggle (fb : FrameBuffer) (y : Fin 32) (x : Fin 64) : FrameBuffer :=
  fb.set y.val (fb[y] ^^^ BitVec.twoPow 64 x.val) y.isLt

/-- One pixel of a sprite (R130): when the sprite's bit is on, note a collision and toggle. -/
def drawPixel (y : Fin 32) (x : Fin 64) (on : Bool) (acc : FrameBuffer × Bool) : FrameBuffer × Bool :=
  if on then (acc.1.toggle y x, acc.2 || acc.1.pixel y x) else acc

/-- The bit of sprite column `c` in a row byte: bit 7 is leftmost (R132). -/
def spriteBit (b : Byte) (c : Nat) : Bool := b.getLsbD (7 - c)

/-- The first `k` columns of one sprite row, left to right, from column `x0`, wrapping at 64 (R130, R132). -/
def drawColumns (b : Byte) (x0 : Nat) (y : Fin 32) : Nat → FrameBuffer × Bool → FrameBuffer × Bool
  | 0, acc => acc
  | c + 1, acc => drawPixel y (Fin.ofNat 64 (x0 + c)) (spriteBit b c) (drawColumns b x0 y c acc)

/-- The first `n` rows of a sprite at `base`, top to bottom, from row `y0`, wrapping at 32 (R130, R132). -/
def drawRows (m : Memory) (base x0 y0 : Nat) : Nat → FrameBuffer × Bool → FrameBuffer × Bool
  | 0, acc => acc
  | r + 1, acc => drawColumns (m.read (base + r)) x0 (Fin.ofNat 32 (y0 + r)) 8 (drawRows m base x0 y0 r acc)

/-- The frame buffer and the collision flag that DRW leaves (R130): the origin is `(VX mod 64, VY mod 32)`. -/
def State.drawn (s : State) (x y n : Nibble) : FrameBuffer × Bool :=
  drawRows s.mem s.i.toNat ((s.getV x).toNat % fbWidth) ((s.getV y).toNat % fbHeight) n.toNat (s.fb, false)

/-- `FB` replaced and marked dirty (R25). -/
def State.setFrame (fb : FrameBuffer) (s : State) : State := { s with fb := fb, dirty := true }

/-- `DRW Vx, Vy, nibble` (R130). -/
def execDrw (x y n : Nibble) (s : State) : Result :=
  withRange n.toNat s ((s.setFrame (s.drawn x y n).1).setV 0xF#4 (flagByte (s.drawn x y n).2)).advance

/-- `CLS` (R131): VF not written. -/
def execCls (s : State) : Result := .next (s.setFrame (Vector.replicate 32 0)).advance

end Sys2Proof.Machine
end

