-- ==== Sys2Proof/Machine/IndexMemory.lean ====
section
/-! DEFINITION. The index register and memory (42_memory_index.md). -/

namespace Sys2Proof.Machine

/-- `LD I, addr` (R120). -/
def execLdI (nnn : Addr12) (s : State) : Result := .next (s.setI (zextAddr nnn)).advance

/-- `ADD I, Vx` (R121): wraps at 2^16, VF not written. -/
def execAddI (x : Nibble) (s : State) : Result := .next (s.setI (s.i + zextByte (s.getV x))).advance

/-- `LD F, Vx` (R122). -/
def execLdF (x : Nibble) (s : State) : Result := .next (s.setI (glyphAddress (s.getV x))).advance

/-- `LD B, Vx` (R123). -/
def execLdB (x : Nibble) (s : State) : Result :=
  withRange 3 s (s.setMem (s.mem.writeBytes s.i.toNat (bcdDigits (s.getV x)))).advance

/-- `LD [I], Vx` (R124). -/
def execLdStore (x : Nibble) (s : State) : Result :=
  withRange (rangeCount x) s
    ((s.setMem (s.mem.writeBytes s.i.toNat (s.firstRegisters x))).setI (s.indexAfterRange x)).advance

/-- `LD Vx, [I]` (R125). -/
def execLdLoad (x : Nibble) (s : State) : Result :=
  withRange (rangeCount x) s
    ({ s with v := loadRegisters s.mem s.i.toNat (rangeCount x) s.v }.setI (s.indexAfterRange x)).advance

end Sys2Proof.Machine
end

