-- ==== Sys2Proof/Machine/Input.lean ====
section
/-! DEFINITION. Key input: SKP, SKNP, wait-for-key (44_input.md). `KEY` is the sample of this same cycle. -/

namespace Sys2Proof.Machine

/-- `KEY[k]` with `k` the low nibble of `V[x]` (R140, R141). -/
def State.keyDown (s : State) (x : Nibble) : Bool := s.key.getLsbD (lowNibble (s.getV x)).toNat

/-- `SKP Vx` (R140). -/
def execSkp (x : Nibble) (s : State) : Result := .next (s.skipIf (s.keyDown x))

/-- `SKNP Vx` (R141). -/
def execSknp (x : Nibble) (s : State) : Result := .next (s.skipIf (!s.keyDown x))

/-- `LD Vx, K` (R142): completes when some key went down since the previous cycle; else `PC` stays and the next cycle
fetches it again. -/
def execLdVxK (x : Nibble) (s : State) : Result :=
  .next (if s.newKeys = 0 then s else (s.setV x ((pickKey s.params.keyPick s.newKeys).setWidth 8)).advance)

end Sys2Proof.Machine
end

