-- ==== Sys2Proof/Machine/Timers.lean ====
section
/-! DEFINITION. Timer access (45_timers.md). None of these reads or writes `PRESC`. -/

namespace Sys2Proof.Machine

/-- `LD Vx, DT` (R150). -/
def execLdVxDt (x : Nibble) (s : State) : Result := .next (s.setV x s.dt).advance

/-- `LD DT, Vx` (R151). -/
def execLdDtVx (x : Nibble) (s : State) : Result := .next { s with dt := s.getV x }.advance

/-- `LD ST, Vx` (R152). -/
def execLdStVx (x : Nibble) (s : State) : Result := .next { s with st := s.getV x }.advance

end Sys2Proof.Machine
end

