-- ==== Sys2Proof/Machine/Events.lean ====
section
/-! DEFINITION. The events other than `Cycle`: the timer subsystem (R175 to R178), `DirtyClear` (R181), `Load` (R192),
and how the next event is taken. -/

namespace Sys2Proof.Machine

/-- One count toward zero (R177): a timer at zero stays there. -/
def countDown (t : Byte) : Byte := if t = 0 then 0 else t - 1

/-- Both timers counted down, independently (R177). -/
def State.countTimers (s : State) : State := { s with dt := countDown s.dt, st := countDown s.st }

/-- `Tick` (R177): nothing while the core is halted (R166). -/
def State.tick (s : State) : State := s.whileRunning State.countTimers

/-- What a pulse does to a core whose `PRESCALE_DIV` is `div` (R176). -/
def State.prescale (div : Nat) (s : State) : State :=
  if s.presc = div - 1 then { s with presc := 0 }.tick else { s with presc := s.presc + 1 }

/-- `TimebasePulse` (R176): nothing while the core is halted (R166). -/
def State.pulse (div : Nat) (s : State) : State := s.whileRunning (State.prescale div)

/-- `AdvanceTime(n)` (R178): `n` successive pulses. -/
def State.advanceTime (div : Nat) : Nat → State → State
  | 0, s => s
  | n + 1, s => (State.advanceTime div n s).pulse div

/-- `DIRTY <- 0` (R181). -/
def State.setClean (s : State) : State := { s with dirty := false }

/-- `DirtyClear` (R181): nothing while the core is halted (R166). -/
def State.clearDirty (s : State) : State := s.whileRunning State.setClean

/-- `Load(addr, bytes)` (R192): the whole block or nothing; nothing while the core is halted (R166); no move of a running
core that has run a cycle (U19; log 5). -/
def load (addr : Nat) (bytes : List Byte) (s : State) : Result :=
  if s.halted then .next s
  else if s.loadOpen then
    .next (if addr + bytes.length ≤ memSize then s.setMem (s.mem.writeBytes addr bytes) else s)
  else .refused .loadAfterFirstCycle

/-- The next event: the oldest of the list, or else the driver's next `Cycle` with inputs under no law (log 2). -/
def State.nextEvent (s : State) : Event :=
  match s.pending with
  | e :: _ => e
  | [] => .cycle (Config.freeKeyIn s.freeInputs) (Config.freeRndIn s.freeInputs)

/-- The state once its next event is taken off the list, and the free inputs of this event are used up. -/
def State.takeEvent (s : State) : State := { s with pending := s.pending.tail, freeInputs := s.freeInputs + 1 }

end Sys2Proof.Machine
end

