-- ==== Sys2Proof/Machine/Cycle.lean ====
section
/-! DEFINITION. One instruction cycle (R3), and one event (R2). -/

namespace Sys2Proof.Machine

/-- Step 1 of a cycle: sample the keys (R26), hold the random byte for the instruction (R184). From the first cycle on
`Load` is no longer permitted (R192). -/
def State.sample (keyIn : Word) (rndIn : Byte) (s : State) : State :=
  { s with key := keyIn, rndIn := rndIn, loadOpen := false }

/-- Step 2, `Fetch()` (R44): the big-endian word at `PC`, or the lowest address out of range. -/
def State.fetch (s : State) : Except Word Word :=
  match rangeError s.pc.toNat 2 with
  | some bad => .error bad
  | none => .ok (wordOfBytes (s.mem.read s.pc.toNat) (s.mem.read (s.pc.toNat + 1)))

/-- Step 5 of a cycle: `KEYPREV <- KEY`, skipped when a fault was raised (R3, R27). -/
def State.latchKeys (s : State) : State := if s.halted then s else { s with keyPrev := s.key }

/-- Step 5 applied to what the instruction answered. -/
def finishCycle : Result → Result
  | .next t => .next t.latchKeys
  | .fault r => .fault r
  | .refused r => .refused r

/-- Steps 2 to 5 of a cycle, on a state whose inputs are sampled. -/
def runInstruction (s : State) : Result :=
  match s.fetch with
  | .error bad => raiseFault .addressOutOfRange bad s
  | .ok w =>
    match decodeWord w with
    | .error _ => raiseFault .unknownInstruction w s
    | .ok i => finishCycle (exec i s)

/-- What an event does to a core (R2): while it is halted only `Reset` has an effect (R166). -/
def runEvent (e : Event) (s : State) : Result :=
  match e with
  | .reset => .next s.resetCore
  | .load addr bytes => load addr bytes s
  | .cycle keyIn rndIn => if s.halted then .next s else runInstruction (s.sample keyIn rndIn)
  | .timebasePulse => .next (s.pulse Config.prescaleDiv)
  | .dirtyClear => .next s.clearDirty

/-- Whether an event is a cycle. -/
def Event.isCycle : Event → Bool
  | .cycle _ _ => true
  | .reset | .load _ _ | .timebasePulse | .dirtyClear => false

/-- Where a word can be fetched from: `PC` if both its bytes are in range, else `PROG_BASE` (log 13). -/
def State.fetchablePc (s : State) : Word := if (rangeError s.pc.toNat 2).isNone then s.pc else progBase

/-- The instruction word `w` stored where the next cycle fetches, and that cycle made the next event of a running core
(log 13). -/
def State.placeWord (w : Word) (s : State) : State :=
  { s with
    mem := s.mem.writeBytes s.fetchablePc.toNat [highByte w, lowByte w]
    pc := s.fetchablePc
    fault := .running
    pending := s.pending.dropWhile fun e => !e.isCycle }

end Sys2Proof.Machine
end

