-- ==== Sys2Proof/Machine/Ports.lean ====
section
/-! DEFINITION. The outputs that collaborators read between events (R179, R180, R183): views of the state. -/

namespace Sys2Proof.Machine

/-- `st_out` (R179). -/
def State.stOut (s : State) : Byte := s.st

/-- `sound_on` (R179). -/
def State.soundOn (s : State) : Bool := s.st != 0

/-- The frame-buffer port (R180): pixel `FB[y][x]`, read only. -/
def State.pixelOut (s : State) (y : Fin 32) (x : Fin 64) : Bool := s.fb.pixel y x

/-- The dirty output (R180). -/
def State.dirtyOut (s : State) : Bool := s.dirty

/-- The 3-bit code of `FAULT` (R30). -/
def FaultKind.code : FaultKind → BitVec 3
  | .running => 0
  | .unknownInstruction => 1
  | .stackOverflow => 2
  | .stackUnderflow => 3
  | .addressOutOfRange => 4

/-- `fault_code` (R183). -/
def State.faultCode (s : State) : BitVec 3 := s.fault.code

/-- `fault_info` (R183). -/
def State.faultInfoOut (s : State) : Word := s.faultInfo

end Sys2Proof.Machine
end

