-- ==== Sys2Proof/Safety.lean ====
section
/-! DEFINITION. What a safe run is, in the terms the claims use: the invariant of the reachable states, and the
finished states of R194. -/

namespace Sys2Proof.Machine

/-- What holds of the state between any two events of a run from `State.reset`, whatever the events are. -/
structure Inv (s : State) : Prop where
  /-- Memory is in canonical form, every listed address below `MEM_SIZE` (R29, R43). -/
  memory : s.mem.wf = true
  /-- The largest value any rule writes to `PC` is 0x10FE (R14). -/
  counter : s.pc.toNat ≤ 0x10FE
  /-- A visible stack entry is a return address some CALL pushed, at most 0x1000 (R81, R83). -/
  returns : ∀ k (h : k < 24), k < s.sp.val → (s.stack[k]'h).toNat ≤ 0x1000
  /-- `PRESC` counts 0 to `PRESCALE_DIV` - 1 (R28). -/
  prescaler : s.presc < Config.prescaleDiv
  /-- While the core runs, `KEYPREV` is the sample of the last cycle, which `KEY` still holds (R26, R27). -/
  keys : s.fault = .running → s.keyPrev = s.key
  /-- While the core runs, `FAULT_INFO` is as reset left it (R30, R31). -/
  noInfo : s.fault = .running → s.faultInfo = 0
  /-- StackOverflow is recorded with a full stack and the `PC` of the CALL (R20, R165). -/
  overflow : s.fault = .stackOverflow → s.sp.val = 24 ∧ s.faultInfo = s.pc
  /-- StackUnderflow is recorded with an empty stack and the `PC` of the RET (R21, R165). -/
  underflow : s.fault = .stackUnderflow → s.sp.val = 0 ∧ s.faultInfo = s.pc
  /-- AddressOutOfRange is recorded with an address above 0xFFF (R43). -/
  badAddress : s.fault = .addressOutOfRange → 0x1000 ≤ s.faultInfo.toNat

/-- The run is finished (R194): the core runs and the word at `PC` is a jump to `PC`. -/
def State.finished (s : State) : Prop :=
  s.fault = .running ∧ ∃ nnn : Addr12, s.pc = zextAddr nnn ∧ s.fetch = .ok (encode (.jp nnn))

end Sys2Proof.Machine
end

