-- ==== Sys2Proof/Certificates/Slice0/Obligations.lean ====
section
/-! DEFINITION. The statements for the provers: what the numbered rules of spec/ say of the encoding, of one event, of
each instruction, and of the whole machine. In every record update `t = { s with f := t.f, … }` the fields that are not
listed are the frame: they are as before. A statement that reads memory after a write has the canonical form of memory as a
premise: `EveryStepKeepsTheInvariant` keeps it. -/

open Sys2Proof Sys2Proof.Machine

/-! ### Words the statements use -/

/-- The 16-bit address made of a number. -/
def Sys2Proof.addr16 (n : Nat) : Word := BitVec.ofNat 16 n

/-- `i` at `s` raises the fault `k` with `info`: the next state differs in `FAULT` and `FAULT_INFO` only (R165). -/
def Sys2Proof.Machine.Raises (i : Instr) (s : State) (k : FaultKind) (info : Word) : Prop :=
  exec i s = .next { s with fault := k, faultInfo := info }

/-- The state once its next event is taken: the model's own event list and counter only. -/
def Sys2Proof.Machine.State.taken (s : State) : State :=
  { s with pending := s.pending.tail, freeInputs := s.freeInputs + 1 }

/-- The state at the start of step 2 of a cycle with inputs `k` and `r` (R3, step 1). -/
def Sys2Proof.Machine.State.started (s : State) (k : Word) (r : Byte) : State :=
  { s.taken with key := k, rndIn := r, loadOpen := false }

/-- Sprite pixel `(r, c)` of R132: the sprite of `n` rows at `I`, drawn at `(VX mod 64, VY mod 32)`, toggles the pixel
in row `py` and column `px`. -/
def Sys2Proof.Machine.SpriteCovers (s : State) (x y n : Nibble) (py : Fin 32) (px : Fin 64) : Prop :=
  ∃ r c : Nat, r < n.toNat ∧ c < 8 ∧ py.val = ((s.getV y).toNat % 32 + r) % 32 ∧
    px.val = ((s.getV x).toNat % 64 + c) % 64 ∧ (s.mem.read (s.i.toNat + r)).getLsbD (7 - c) = true

/-- The registers an instruction may write, from the table of R11 and the list of R12. -/
def Sys2Proof.Machine.mayWriteRegister (p : Params) : Instr → Nibble → Prop
  | .ldImm x _, r | .rnd x _, r | .ldVxDt x, r | .ldVxK x, r | .addImm x _, r | .ldReg x _, r => r = x
  | .or x _, r | .and x _, r | .xor x _, r => r = x ∨ (p.logicResetsVf = true ∧ r = 0xF#4)
  | .addReg x _, r | .sub x _, r | .subn x _, r | .shr x _, r | .shl x _, r => r = x ∨ r = 0xF#4
  | .drw _ _ _, r => r = 0xF#4
  | .ldLoad x, r => r.toNat ≤ x.toNat
  | .sys _, _ | .cls, _ | .ret, _ | .jp _, _ | .call _, _ | .seImm _ _, _ | .sneImm _ _, _ | .seReg _ _ _, _
  | .sneReg _ _ _, _ | .ldI _, _ | .jpV0 _, _ | .skp _, _ | .sknp _, _ | .ldDtVx _, _ | .ldStVx _, _ | .addI _, _
  | .ldF _, _ | .ldB _, _ | .ldStore _, _ => False

/-! ### Encoding (30_encoding.md) -/

/-- Every well-formed instruction, with every operand at every value, decodes from its own word. The ignored low nibble
of 5XYn and 9XYn counts as an operand here, which is the model's choice (log 17). -/
def Obligations.DecodeOfEncodeIsIdentity : Prop :=
  ∀ i : Instr, i.wf = true → decodeWord (encode i) = .ok i

/-- No bit of a decoded word is dropped, and decoding gives well-formed instructions only. That encoding gives back the
very word, where R64's canonical encoding of 5XYn and 9XYn has low nibble 0, rests on the model's choice to keep the
ignored nibble as an operand (log 17). -/
def Obligations.EncodeOfDecodeIsTheWord : Prop :=
  ∀ (w : Word) (i : Instr), decodeWord w = .ok i → i.wf = true ∧ encode i = w

/-- R64, R65: the decoded instruction's row matches the word under its mask; and a word that matches a row decodes to
that row, except that 0x00E0 and 0x00EE, which match the SYS row too, decode to CLS and RET. -/
def Obligations.DecodeSelectsTheMatchingRow : Prop :=
  (∀ (w : Word) (i : Instr), decodeWord w = .ok i → w &&& (opcodeRow i).1 = (opcodeRow i).2) ∧
  (∀ (w : Word) (j : Instr), w &&& (opcodeRow j).1 = (opcodeRow j).2 →
    ∃ i, decodeWord w = .ok i ∧
      ((w = 0x00E0#16 ∧ i = .cls) ∨ (w = 0x00EE#16 ∧ i = .ret) ∨
        (w ≠ 0x00E0#16 ∧ w ≠ 0x00EE#16 ∧ opcodeRow i = opcodeRow j)))

/-- R66, R67: every word decodes to an instruction or is rejected as that unknown word; the rejected words are exactly
the three families of R67, a list the spec marks as derived from R66. -/
def Obligations.UnknownWordsAreThoseListed : Prop :=
  ∀ w : Word,
    ((∃ i, decodeWord w = .ok i) ∨ decodeWord w = .error (.unknownInstruction w)) ∧
    (decodeWord w = .error (.unknownInstruction w) ↔
      (fieldOp w = 0x8#4 ∧ fieldN w ∈ [0x8#4, 0x9#4, 0xA#4, 0xB#4, 0xC#4, 0xD#4, 0xF#4]) ∨
      (fieldOp w = 0xE#4 ∧ fieldNN w ∉ [0x9E#8, 0xA1#8]) ∨
      (fieldOp w = 0xF#4 ∧
        fieldNN w ∉ [0x07#8, 0x0A#8, 0x15#8, 0x18#8, 0x1E#8, 0x29#8, 0x33#8, 0x55#8, 0x65#8]))

/-- From R61, R62, R64: the pattern of each of the 35 rows, for every value of its fields, decodes to the row's
instruction with these operands. That `seReg` and `sneReg` keep the ignored low nibble of 5XYn and 9XYn is the model's
choice (log 17). -/
def Obligations.EveryPatternDecodesToItsRow : Prop :=
  (∀ nnn : Addr12,
    (nnn ≠ 0x0E0#12 → nnn ≠ 0x0EE#12 → decodeWord (0x0#4 ++ nnn) = .ok (.sys nnn)) ∧
    decodeWord 0x00E0 = .ok .cls ∧ decodeWord 0x00EE = .ok .ret ∧
    decodeWord (0x1#4 ++ nnn) = .ok (.jp nnn) ∧ decodeWord (0x2#4 ++ nnn) = .ok (.call nnn) ∧
    decodeWord (0xA#4 ++ nnn) = .ok (.ldI nnn) ∧ decodeWord (0xB#4 ++ nnn) = .ok (.jpV0 nnn)) ∧
  (∀ (x : Nibble) (nn : Byte),
    decodeWord (0x3#4 ++ x ++ nn) = .ok (.seImm x nn) ∧ decodeWord (0x4#4 ++ x ++ nn) = .ok (.sneImm x nn) ∧
    decodeWord (0x6#4 ++ x ++ nn) = .ok (.ldImm x nn) ∧ decodeWord (0x7#4 ++ x ++ nn) = .ok (.addImm x nn) ∧
    decodeWord (0xC#4 ++ x ++ nn) = .ok (.rnd x nn)) ∧
  (∀ x y n : Nibble,
    decodeWord (0x5#4 ++ x ++ y ++ n) = .ok (.seReg x y n) ∧ decodeWord (0x9#4 ++ x ++ y ++ n) = .ok (.sneReg x y n) ∧
    decodeWord (0xD#4 ++ x ++ y ++ n) = .ok (.drw x y n) ∧
    decodeWord (0x8#4 ++ x ++ y ++ 0x0#4) = .ok (.ldReg x y) ∧ decodeWord (0x8#4 ++ x ++ y ++ 0x1#4) = .ok (.or x y) ∧
    decodeWord (0x8#4 ++ x ++ y ++ 0x2#4) = .ok (.and x y) ∧ decodeWord (0x8#4 ++ x ++ y ++ 0x3#4) = .ok (.xor x y) ∧
    decodeWord (0x8#4 ++ x ++ y ++ 0x4#4) = .ok (.addReg x y) ∧ decodeWord (0x8#4 ++ x ++ y ++ 0x5#4) = .ok (.sub x y) ∧
    decodeWord (0x8#4 ++ x ++ y ++ 0x6#4) = .ok (.shr x y) ∧ decodeWord (0x8#4 ++ x ++ y ++ 0x7#4) = .ok (.subn x y) ∧
    decodeWord (0x8#4 ++ x ++ y ++ 0xE#4) = .ok (.shl x y)) ∧
  (∀ x : Nibble,
    decodeWord (0xE#4 ++ x ++ 0x9E#8) = .ok (.skp x) ∧ decodeWord (0xE#4 ++ x ++ 0xA1#8) = .ok (.sknp x) ∧
    decodeWord (0xF#4 ++ x ++ 0x07#8) = .ok (.ldVxDt x) ∧ decodeWord (0xF#4 ++ x ++ 0x0A#8) = .ok (.ldVxK x) ∧
    decodeWord (0xF#4 ++ x ++ 0x15#8) = .ok (.ldDtVx x) ∧ decodeWord (0xF#4 ++ x ++ 0x18#8) = .ok (.ldStVx x) ∧
    decodeWord (0xF#4 ++ x ++ 0x1E#8) = .ok (.addI x) ∧ decodeWord (0xF#4 ++ x ++ 0x29#8) = .ok (.ldF x) ∧
    decodeWord (0xF#4 ++ x ++ 0x33#8) = .ok (.ldB x) ∧ decodeWord (0xF#4 ++ x ++ 0x55#8) = .ok (.ldStore x) ∧
    decodeWord (0xF#4 ++ x ++ 0x65#8) = .ok (.ldLoad x))

/-- From R45, R60: an instruction's two bytes, high byte first, followed by any bytes, decode to it and leave the rest.
That fewer than two bytes are rejected as `truncated`, and that the decoder answers the rest of a list, is the model's
choice (log 24). -/
def Obligations.DecodeTakesTwoBytesHighFirst : Prop :=
  (∀ (i : Instr) (hi lo : Byte) (rest : List Byte), decodeWord (hi ++ lo) = .ok i → decode (hi :: lo :: rest) = .ok (i, rest)) ∧
  (∀ (i : Instr) (rest : List Byte), i.wf = true → decode (encodeBytes i ++ rest) = .ok (i, rest)) ∧
  (∀ b : Byte, decode [b] = .error .truncated) ∧ decode [] = .error .truncated

/-- Words of the spec's test vectors (95_test_vectors.md) and what they stand for, at least one of each of the files 40
to 45: control flow, arithmetic, index and memory, graphics, keys, timers, and two unknown words. The low nibble that
`seReg` keeps is the model's choice (log 17). -/
def Obligations.SpecExampleWordsDecode : Prop :=
  decodeWord 0x00E1 = .ok (.sys 0x0E1) ∧ decodeWord 0x2300 = .ok (.call 0x300) ∧
  decodeWord 0x3A05 = .ok (.seImm 0xA 0x05) ∧ decodeWord 0x5ABF = .ok (.seReg 0xA 0xB 0xF#4) ∧
  decodeWord 0x812E = .ok (.shl 1 2) ∧ decodeWord 0xC10F = .ok (.rnd 1 0x0F) ∧ decodeWord 0xF255 = .ok (.ldStore 2) ∧
  decodeWord 0xF129 = .ok (.ldF 1) ∧ decodeWord 0x00E0 = .ok .cls ∧ decodeWord 0xD123 = .ok (.drw 1 2 3) ∧
  decodeWord 0xE1A1 = .ok (.sknp 1) ∧ decodeWord 0xF30A = .ok (.ldVxK 3) ∧ decodeWord 0xF207 = .ok (.ldVxDt 2) ∧
  decodeWord 0xF215 = .ok (.ldDtVx 2) ∧ decodeWord 0xF218 = .ok (.ldStVx 2) ∧
  decodeWord 0xFF75 = .error (.unknownInstruction 0xFF75) ∧ decodeWord 0x8128 = .error (.unknownInstruction 0x8128)

/-! ### One event (00_scope.md, 60_exceptions.md, 70_reset_and_hazards.md) -/

/-- Which event comes next, by the model's choices: the oldest of the list (log 1); when none is listed, a `Cycle` (log
2) whose inputs are the free values that the counter selects (log 3). -/
def Obligations.NextEventIsTheOldestListed : Prop :=
  ∀ s : State, (∀ e es, s.pending = e :: es → s.nextEvent = e) ∧
    (s.pending = [] → s.nextEvent = .cycle (Config.freeKeyIn s.freeInputs) (Config.freeRndIn s.freeInputs))

/-- R3: a cycle of a running core whose bytes at `PC` decode to `i` is `exec i` on the state with the keys sampled,
and then `KEYPREV <- KEY` unless a fault was raised. The event list, the counter and the two fields a cycle sets are the
model's own (logs 1, 3, 4, 5). -/
def Obligations.StepRunsTheDecodedInstruction : Prop :=
  ∀ (s : State) (k : Word) (r : Byte) (i : Instr) (t : State), s.fault = .running → s.nextEvent = .cycle k r →
    s.pc.toNat + 1 ≤ 0xFFF → decode [s.mem.read s.pc.toNat, s.mem.read (s.pc.toNat + 1)] = .ok (i, []) →
    exec i (s.started k r) = .next t →
    step s = .next (if t.fault = .running then { t with keyPrev := t.key } else t)

/-- R44, R168: a cycle with `PC` above 0xFFE raises AddressOutOfRange, whatever the bytes at `PC` are, with the lowest
bad address: `PC`, or 0x1000 when `PC` = 0xFFF. -/
def Obligations.FetchOutOfRangeFaults : Prop :=
  ∀ (s : State) (k : Word) (r : Byte), s.fault = .running → s.nextEvent = .cycle k r →
    (s.pc.toNat = 0xFFF →
      step s = .next { s.started k r with fault := .addressOutOfRange, faultInfo := 0x1000 }) ∧
    (s.pc.toNat > 0xFFF →
      step s = .next { s.started k r with fault := .addressOutOfRange, faultInfo := s.pc })

/-- R161, R165: a cycle that fetches a word of no row raises UnknownInstruction with that word. -/
def Obligations.UnknownWordFaults : Prop :=
  ∀ (s : State) (k : Word) (r : Byte) (w : Word), s.fault = .running → s.nextEvent = .cycle k r →
    s.pc.toNat + 1 ≤ 0xFFF → w = s.mem.read s.pc.toNat ++ s.mem.read (s.pc.toNat + 1) →
    decodeWord w = .error (.unknownInstruction w) →
    step s = .next { s.started k r with fault := .unknownInstruction, faultInfo := w }

/-- R30, R166: a halted core stays as it is through any number of events among which there is no `Reset`. That each
event is used up is the model's own (log 11). -/
def Obligations.FaultStaysUntilReset : Prop :=
  ∀ (n : Nat) (s : State), s.fault ≠ .running → Event.reset ∉ s.pending.take n →
    Host.Core.run Sys2Proof.core n s =
      .next { s with pending := s.pending.drop n, freeInputs := s.freeInputs + n }

/-- R190: `Reset` puts every element at its reset value, whatever the state was; what is not an element of the core
(parameters, events to come, input counter) stays (log 12). -/
def Obligations.ResetEventResetsTheCore : Prop :=
  ∀ (s : State) (es : List Event), s.pending = .reset :: es →
    step s = .next { State.reset with params := s.params, pending := es, freeInputs := s.freeInputs + 1 }

/-- R191: the complete list of reset values. -/
def Obligations.ResetValuesAreThoseListed : Prop :=
  State.reset.pc = 0x0200 ∧ (∀ r, State.reset.getV r = 0) ∧ State.reset.i = 0 ∧ State.reset.sp.val = 0 ∧
  (∀ k (h : k < 24), State.reset.stack[k]'h = 0) ∧ State.reset.dt = 0 ∧ State.reset.st = 0 ∧
  State.reset.soundOn = false ∧ (∀ y x, State.reset.fb.pixel y x = false) ∧ State.reset.key = 0 ∧
  (∀ a, State.reset.mem.read a = 0) ∧ State.reset.dirty = false ∧ State.reset.keyPrev = 0 ∧ State.reset.presc = 0 ∧
  State.reset.fault = .running ∧ State.reset.faultCode = 0 ∧ State.reset.faultInfo = 0

/-- R192: before the first cycle `Load` writes the whole block when it fits, and nothing when it does not; it never
sets `FAULT`. After the first cycle of a running core it is no move (U19; log 5). -/
def Obligations.LoadWritesAllOrNothing : Prop :=
  ∀ (s : State) (addr : Nat) (bytes : List Byte) (es : List Event), s.mem.wf = true → s.fault = .running →
    s.pending = .load addr bytes :: es →
    (s.loadOpen = true → addr + bytes.length ≤ 0x1000 →
      ∃ t, step s = .next t ∧ t = { s.taken with mem := t.mem } ∧
        (∀ (j : Nat) (h : j < bytes.length), t.mem.read (addr + j) = bytes[j]) ∧
        (∀ a, a < addr ∨ addr + bytes.length ≤ a → t.mem.read a = s.mem.read a)) ∧
    (s.loadOpen = true → 0x1000 < addr + bytes.length → step s = .next s.taken) ∧
    (s.loadOpen = false → step s = .refused .loadAfterFirstCycle)

/-- R177: one tick takes one from each timer that is above zero, and changes nothing else; a tick of a halted core
changes nothing (R166). -/
def Obligations.TickCountsBothTimersDown : Prop :=
  ∀ s : State,
    (s.fault = .running → s.tick = { s with dt := s.tick.dt, st := s.tick.st } ∧
      (s.tick.dt).toNat = s.dt.toNat - 1 ∧ (s.tick.st).toNat = s.st.toNat - 1) ∧
    (s.fault ≠ .running → s.tick = s)

/-- R176: a pulse of a running core counts the prescaler, and every `PRESCALE_DIV`-th is a tick. -/
def Obligations.PulseDrivesThePrescaler : Prop :=
  ∀ (s : State) (es : List Event), s.fault = .running → s.pending = .timebasePulse :: es →
    (s.presc = Config.prescaleDiv - 1 → step s = .next { s.taken.tick with presc := 0 }) ∧
    (s.presc ≠ Config.prescaleDiv - 1 → step s = .next { s.taken with presc := s.presc + 1 })

/-- R178, whose count the spec marks as derived from R176: `n` pulses of a running core fire `(PRESC + n) div
PRESCALE_DIV` ticks and carry the remainder, whatever `PRESCALE_DIV` is; no timer goes below zero. On a halted core they
change nothing (R166). And `AdvanceTime(n)` is what `n` `TimebasePulse` events with no event between them do, halted or
not (the event list and the counter are the model's own, logs 1 and 3). -/
def Obligations.AdvanceTimeCarriesTheRemainder : Prop :=
  (∀ (div n : Nat) (s : State),
    (s.fault = .running → s.presc < div →
      ∃ t, State.advanceTime div n s = t ∧ t = { s with dt := t.dt, st := t.st, presc := t.presc } ∧
        t.presc = (s.presc + n) % div ∧
        t.dt.toNat = s.dt.toNat - (s.presc + n) / div ∧ t.st.toNat = s.st.toNat - (s.presc + n) / div) ∧
    (s.fault ≠ .running → State.advanceTime div n s = s)) ∧
  (∀ (n : Nat) (s : State) (es : List Event), s.pending = List.replicate n .timebasePulse ++ es →
    Host.Core.run Sys2Proof.core n s =
      .next { State.advanceTime Config.prescaleDiv n s with pending := es, freeInputs := s.freeInputs + n })

/-- R196, which the spec marks as derived from R176 and R177: on a running core a value `n > 0` in DT, or in ST, is not
yet 0 after `(n - 1) * PRESCALE_DIV` pulses and is 0 after `n * PRESCALE_DIV`. -/
def Obligations.TimerExpiresWithinItsWindow : Prop :=
  ∀ (div : Nat) (s : State), s.fault = .running → s.presc < div →
    (s.dt ≠ 0 → (State.advanceTime div ((s.dt.toNat - 1) * div) s).dt ≠ 0 ∧
      (State.advanceTime div (s.dt.toNat * div) s).dt = 0) ∧
    (s.st ≠ 0 → (State.advanceTime div ((s.st.toNat - 1) * div) s).st ≠ 0 ∧
      (State.advanceTime div (s.st.toNat * div) s).st = 0)

/-- R181: `DirtyClear` of a running core clears `DIRTY` and changes nothing else. -/
def Obligations.DirtyClearClearsOnlyDirty : Prop :=
  ∀ (s : State) (es : List Event), s.fault = .running → s.pending = .dirtyClear :: es →
    step s = .next { s.taken with dirty := false }

/-- R179, R183: the outputs are views of the state; the codes of `FAULT` are those of R30. -/
def Obligations.PortsShowTheState : Prop :=
  ∀ s : State, s.stOut = s.st ∧ (s.soundOn = true ↔ s.st ≠ 0) ∧ s.faultInfoOut = s.faultInfo ∧
    (s.halted = true ↔ s.faultCode ≠ 0) ∧ (s.fault = .running ↔ s.faultCode = 0) ∧
    (s.fault = .unknownInstruction ↔ s.faultCode = 1) ∧ (s.fault = .stackOverflow ↔ s.faultCode = 2) ∧
    (s.fault = .stackUnderflow ↔ s.faultCode = 3) ∧ (s.fault = .addressOutOfRange ↔ s.faultCode = 4)

/-- `withFetchWord` makes the next step run the word it is given (log 13, the model's own loading of one word): the
next event is a cycle of a running core, and the fetch reads the word. -/
def Obligations.PlacedWordIsFetchedNext : Prop :=
  ∀ (s : State) (w : Word), s.mem.wf = true → ∃ k r, (s.withFetchWord 16 w.toNat).nextEvent = .cycle k r ∧
    (s.withFetchWord 16 w.toNat).fault = .running ∧ ((s.withFetchWord 16 w.toNat).started k r).fetch = .ok w

/-! ### Control flow (40_control_flow.md) -/

/-- R80: `SYS` raises UnknownInstruction with its word, or only advances `PC` when `SYS_IS_NOP`. -/
def Obligations.SysRaisesOrAdvances : Prop :=
  ∀ (s : State) (nnn : Addr12),
    (s.params.sysIsNop = false → Raises (.sys nnn) s .unknownInstruction (addr16 nnn.toNat)) ∧
    (s.params.sysIsNop = true → exec (.sys nnn) s = .next { s with pc := s.pc + 2 })

/-- R82, R88: JP goes to `NNN`, JP V0 to `NNN + V0` without a mask; nothing else changes. -/
def Obligations.JumpsGoToTheirTarget : Prop :=
  ∀ (s : State) (nnn : Addr12),
    exec (.jp nnn) s = .next { s with pc := addr16 nnn.toNat } ∧
    exec (.jpV0 nnn) s = .next { s with pc := addr16 (nnn.toNat + (s.getV 0).toNat) }

/-- R83, R20: CALL pushes `PC + 2` and jumps; with a full stack it raises StackOverflow(PC) and changes nothing else. -/
def Obligations.CallPushesTheReturnAddress : Prop :=
  ∀ (s : State) (nnn : Addr12),
    (s.sp.val < 24 → ∃ t, exec (.call nnn) s = .next t ∧ t = { s with pc := t.pc, sp := t.sp, stack := t.stack } ∧
      t.pc = addr16 nnn.toNat ∧ t.sp.val = s.sp.val + 1 ∧
      ∀ k (h : k < 24), t.stack[k]'h = if k = s.sp.val then s.pc + 2 else s.stack[k]'h) ∧
    (s.sp.val = 24 → Raises (.call nnn) s .stackOverflow s.pc)

/-- R81, R21: RET jumps to the popped address, used as is; with an empty stack it raises StackUnderflow(PC) and changes
nothing else. -/
def Obligations.RetPopsTheReturnAddress : Prop :=
  ∀ s : State,
    (∀ k (h : k < 24), s.sp.val = k + 1 →
      ∃ t, exec .ret s = .next t ∧ t = { s with pc := s.stack[k]'h, sp := t.sp } ∧ t.sp.val = k) ∧
    (s.sp.val = 0 → Raises .ret s .stackUnderflow s.pc)

/-- The source's stack round trip (95_test_vectors.md S5): RET right after CALL returns to the instruction after the
CALL with the stack as it was. -/
def Obligations.ReturnUndoesCall : Prop :=
  ∀ (s : State) (nnn : Addr12), s.sp.val < 24 →
    ∃ t u, exec (.call nnn) s = .next t ∧ exec .ret t = .next u ∧
      u = { s with pc := s.pc + 2, stack := u.stack } ∧ ∀ k (h : k < 24), k < s.sp.val → u.stack[k]'h = s.stack[k]'h

/-- R84 to R87: the four register skips add 4 to `PC` when their condition holds and 2 otherwise; the low nibble of
5XYn and 9XYn, an operand by the model's choice (log 17), takes no part; nothing else changes. -/
def Obligations.SkipsAdvanceByFourOrTwo : Prop :=
  ∀ (s : State) (x y low : Nibble) (nn : Byte),
    exec (.seImm x nn) s = .next { s with pc := if s.getV x = nn then s.pc + 4 else s.pc + 2 } ∧
    exec (.sneImm x nn) s = .next { s with pc := if s.getV x ≠ nn then s.pc + 4 else s.pc + 2 } ∧
    exec (.seReg x y low) s = .next { s with pc := if s.getV x = s.getV y then s.pc + 4 else s.pc + 2 } ∧
    exec (.sneReg x y low) s = .next { s with pc := if s.getV x ≠ s.getV y then s.pc + 4 else s.pc + 2 }

/-! ### Register loads, arithmetic, logic (41_arithmetic_logic.md) -/

/-- R100, R102: the two plain loads write `VX` only. -/
def Obligations.PlainLoadsWriteOneRegister : Prop :=
  ∀ (s : State) (x y : Nibble) (nn : Byte),
    (∃ t, exec (.ldImm x nn) s = .next t ∧ t = { s with v := t.v, pc := s.pc + 2 } ∧
      ∀ r, t.getV r = if r = x then nn else s.getV r) ∧
    (∃ t, exec (.ldReg x y) s = .next t ∧ t = { s with v := t.v, pc := s.pc + 2 } ∧
      ∀ r, t.getV r = if r = x then s.getV y else s.getV r)

/-- R101: the immediate add wraps at 8 bits and writes `VX` only: no carry into VF. -/
def Obligations.AddImmediateWrapsWithoutCarry : Prop :=
  ∀ (s : State) (x : Nibble) (nn : Byte),
    ∃ t, exec (.addImm x nn) s = .next t ∧ t = { s with v := t.v, pc := s.pc + 2 } ∧
      (t.getV x).toNat = ((s.getV x).toNat + nn.toNat) % 256 ∧ ∀ r, r ≠ x → t.getV r = s.getV r

/-- R103 to R105: OR, AND, XOR combine the bits of `VX` and `VY` into `VX`; VF keeps its value, or becomes 0 when
`LOGIC_RESETS_VF`. -/
def Obligations.LogicCombinesBits : Prop :=
  ∀ (s : State) (x y : Nibble) (i : Instr) (f : Bool → Bool → Bool),
    (i = .or x y ∧ f = Bool.or) ∨ (i = .and x y ∧ f = Bool.and) ∨ (i = .xor x y ∧ f = Bool.xor) →
    ∃ t, exec i s = .next t ∧ t = { s with v := t.v, pc := s.pc + 2 } ∧
      (s.params.logicResetsVf = true → t.getV 0xF#4 = 0) ∧
      ((x ≠ 0xF#4 ∨ s.params.logicResetsVf = false) →
        ∀ j < 8, (t.getV x).getLsbD j = f ((s.getV x).getLsbD j) ((s.getV y).getLsbD j)) ∧
      (∀ r, r ≠ x → (r ≠ 0xF#4 ∨ s.params.logicResetsVf = false) → t.getV r = s.getV r)

/-- R106, R113: ADD writes the wrapped sum to `VX`, then the carry to VF; with `X` = 0xF the carry stays. -/
def Obligations.AddSetsCarry : Prop :=
  ∀ (s : State) (x y : Nibble),
    ∃ t, exec (.addReg x y) s = .next t ∧ t = { s with v := t.v, pc := s.pc + 2 } ∧
      t.getV 0xF#4 = (if (s.getV x).toNat + (s.getV y).toNat > 0xFF then 1 else 0) ∧
      (x ≠ 0xF#4 → (t.getV x).toNat = ((s.getV x).toNat + (s.getV y).toNat) % 256) ∧
      ∀ r, r ≠ x → r ≠ 0xF#4 → t.getV r = s.getV r

/-- R107, R109, R112: SUB and SUBN write the wrapped difference to `VX`, then 1 to VF iff no borrow occurs (equal
operands give 1); with `X` = 0xF the flag stays. -/
def Obligations.SubtractionsSetNotBorrow : Prop :=
  ∀ (s : State) (x y : Nibble) (i : Instr) (a b : Byte),
    (i = .sub x y ∧ a = s.getV x ∧ b = s.getV y) ∨ (i = .subn x y ∧ a = s.getV y ∧ b = s.getV x) →
    ∃ t, exec i s = .next t ∧ t = { s with v := t.v, pc := s.pc + 2 } ∧
      t.getV 0xF#4 = (if a.toNat ≥ b.toNat then 1 else 0) ∧
      (x ≠ 0xF#4 → ((t.getV x).toNat : Int) = ((a.toNat : Int) - b.toNat) % 256) ∧
      ∀ r, r ≠ x → r ≠ 0xF#4 → t.getV r = s.getV r

/-- R108, R110: the shifts move their operand by one bit, 0 shifted in, and then the bit shifted out to VF. The
operand is `VX`, or `VY` when `SHIFT_USES_VY`. -/
def Obligations.ShiftsMoveTheBitOut : Prop :=
  ∀ (s : State) (x y : Nibble) (a : Byte), a = (if s.params.shiftUsesVy = true then s.getV y else s.getV x) →
    (∃ t, exec (.shr x y) s = .next t ∧ t = { s with v := t.v, pc := s.pc + 2 } ∧
      (t.getV 0xF#4).toNat = a.toNat % 2 ∧ (x ≠ 0xF#4 → (t.getV x).toNat = a.toNat / 2) ∧
      ∀ r, r ≠ x → r ≠ 0xF#4 → t.getV r = s.getV r) ∧
    (∃ t, exec (.shl x y) s = .next t ∧ t = { s with v := t.v, pc := s.pc + 2 } ∧
      (t.getV 0xF#4).toNat = a.toNat / 128 ∧ (x ≠ 0xF#4 → (t.getV x).toNat = 2 * a.toNat % 256) ∧
      ∀ r, r ≠ x → r ≠ 0xF#4 → t.getV r = s.getV r)

/-- R111: RND writes the AND of the cycle's random byte, whatever it is, and `NN` to `VX`. -/
def Obligations.RndMasksTheRandomByte : Prop :=
  ∀ (s : State) (x : Nibble) (nn : Byte),
    ∃ t, exec (.rnd x nn) s = .next t ∧ t = { s with v := t.v, pc := s.pc + 2 } ∧
      (∀ j < 8, (t.getV x).getLsbD j = (s.rndIn.getLsbD j && nn.getLsbD j)) ∧ ∀ r, r ≠ x → t.getV r = s.getV r

/-! ### Index register and memory (42_memory_index.md) -/

/-- R120, R121, R122: the three writers of `I`. ADD I wraps at 2^16 and leaves VF; LD F takes 5 times the low nibble. -/
def Obligations.IndexInstructionsSetIndex : Prop :=
  ∀ (s : State) (x : Nibble) (nnn : Addr12),
    exec (.ldI nnn) s = .next { s with i := addr16 nnn.toNat, pc := s.pc + 2 } ∧
    exec (.addI x) s = .next { s with i := addr16 ((s.i.toNat + (s.getV x).toNat) % 65536), pc := s.pc + 2 } ∧
    exec (.ldF x) s = .next { s with i := addr16 (5 * ((s.getV x).toNat % 16)), pc := s.pc + 2 }

/-- R123, R126: LD B stores the hundreds, tens and ones digits of `VX` at `I`, `I + 1`, `I + 2` and nothing else; when
`I > 0xFFD` it raises AddressOutOfRange with the lowest bad address and stores nothing. -/
def Obligations.BcdStoresThreeDigits : Prop :=
  ∀ (s : State) (x : Nibble), s.mem.wf = true →
    (s.i.toNat + 2 ≤ 0xFFF → ∃ t, exec (.ldB x) s = .next t ∧ t = { s with mem := t.mem, pc := s.pc + 2 } ∧
      (t.mem.read s.i.toNat).toNat = (s.getV x).toNat / 100 ∧
      (t.mem.read (s.i.toNat + 1)).toNat = (s.getV x).toNat / 10 % 10 ∧
      (t.mem.read (s.i.toNat + 2)).toNat = (s.getV x).toNat % 10 ∧
      ∀ a, a < s.i.toNat ∨ s.i.toNat + 2 < a → t.mem.read a = s.mem.read a) ∧
    (s.i.toNat + 2 > 0xFFF → Raises (.ldB x) s .addressOutOfRange (addr16 (max s.i.toNat 0x1000)))

/-- R124, R126: LD [I], Vx stores `V0`..`VX` at `I`..`I + X` in register order and nothing else; `I` stays, or becomes
`(I + X + 1)[15:0]` when `LDST_INCREMENTS_I`; out of range it raises AddressOutOfRange and stores nothing. -/
def Obligations.StoreRangeCopiesRegisters : Prop :=
  ∀ (s : State) (x : Nibble), s.mem.wf = true →
    (s.i.toNat + x.toNat ≤ 0xFFF → ∃ t, exec (.ldStore x) s = .next t ∧
      t = { s with mem := t.mem, i := t.i, pc := s.pc + 2 } ∧
      t.i = (if s.params.ldstIncrementsI = true then addr16 (s.i.toNat + x.toNat + 1) else s.i) ∧
      (∀ r : Nibble, r.toNat ≤ x.toNat → t.mem.read (s.i.toNat + r.toNat) = s.getV r) ∧
      ∀ a, a < s.i.toNat ∨ s.i.toNat + x.toNat < a → t.mem.read a = s.mem.read a) ∧
    (s.i.toNat + x.toNat > 0xFFF → Raises (.ldStore x) s .addressOutOfRange (addr16 (max s.i.toNat 0x1000)))

/-- R125, R126: LD Vx, [I] loads `V0`..`VX` from `I`..`I + X` and leaves the registers above; `I` as in FX55; out of range
it raises AddressOutOfRange and loads nothing. -/
def Obligations.LoadRangeCopiesMemory : Prop :=
  ∀ (s : State) (x : Nibble),
    (s.i.toNat + x.toNat ≤ 0xFFF → ∃ t, exec (.ldLoad x) s = .next t ∧
      t = { s with v := t.v, i := t.i, pc := s.pc + 2 } ∧
      t.i = (if s.params.ldstIncrementsI = true then addr16 (s.i.toNat + x.toNat + 1) else s.i) ∧
      ∀ r : Nibble, t.getV r = if r.toNat ≤ x.toNat then s.mem.read (s.i.toNat + r.toNat) else s.getV r) ∧
    (s.i.toNat + x.toNat > 0xFFF → Raises (.ldLoad x) s .addressOutOfRange (addr16 (max s.i.toNat 0x1000)))

/-- FX55 and then FX65 of the same range, from the same `I`, bring every register back, whatever was loaded into the
registers in between (R124, R125). -/
def Obligations.LoadRangeUndoesStoreRange : Prop :=
  ∀ (s t u : State) (x : Nibble) (v : Registers), s.mem.wf = true → s.i.toNat + x.toNat ≤ 0xFFF →
    exec (.ldStore x) s = .next t → exec (.ldLoad x) { t with v := v, i := s.i } = .next u →
    ∀ r : Nibble, r.toNat ≤ x.toNat → u.getV r = s.getV r

/-- R51, which the spec marks as derived, and R200: a byte that FX55 or FX33 stores is what every later fetch sees while
memory is as the store left it, beginning with the very next one, with nothing to flush, whether both bytes of the
fetched word were stored, or one, or none. `n` bytes `b 0`, `b 1`, ... are stored at `I`. -/
def Obligations.StoredCodeIsFetched : Prop :=
  ∀ (i : Instr) (s t u : State) (n : Nat) (b : Nat → Byte), s.mem.wf = true →
    ((∃ x : Nibble, i = .ldStore x ∧ n = x.toNat + 1 ∧ ∀ r : Nibble, r.toNat ≤ x.toNat → b r.toNat = s.getV r) ∨
      (∃ x : Nibble, i = .ldB x ∧ n = 3 ∧ (b 0).toNat = (s.getV x).toNat / 100 ∧
        (b 1).toNat = (s.getV x).toNat / 10 % 10 ∧ (b 2).toNat = (s.getV x).toNat % 10)) →
    s.i.toNat + n ≤ 0x1000 → exec i s = .next t → u.mem = t.mem → u.pc.toNat ≤ 0xFFE →
    ∃ hi lo : Byte, u.fetch = .ok (hi ++ lo) ∧
      (hi = if s.i.toNat ≤ u.pc.toNat ∧ u.pc.toNat < s.i.toNat + n then b (u.pc.toNat - s.i.toNat)
        else s.mem.read u.pc.toNat) ∧
      (lo = if s.i.toNat ≤ u.pc.toNat + 1 ∧ u.pc.toNat + 1 < s.i.toNat + n then b (u.pc.toNat + 1 - s.i.toNat)
        else s.mem.read (u.pc.toNat + 1))

/-! ### Graphics (43_graphics.md) -/

/-- R130, R132: a sprite in range is drawn by XOR at `(VX mod 64, VY mod 32)` with wrap-around, bit 7 leftmost; VF is 1
iff a pixel that was on is toggled; DIRTY is set; memory and `I` stay. Out of range it raises AddressOutOfRange and
draws nothing. -/
def Obligations.DrawXorsTheSprite : Prop :=
  ∀ (s : State) (x y n : Nibble),
    (n = 0 ∨ s.i.toNat + n.toNat - 1 ≤ 0xFFF → ∃ t, exec (.drw x y n) s = .next t ∧
      t = { s with fb := t.fb, v := t.v, dirty := true, pc := s.pc + 2 } ∧
      (∀ py px, SpriteCovers s x y n py px → t.fb.pixel py px = !s.fb.pixel py px) ∧
      (∀ py px, ¬SpriteCovers s x y n py px → t.fb.pixel py px = s.fb.pixel py px) ∧
      ((∃ py px, SpriteCovers s x y n py px ∧ s.fb.pixel py px = true) → t.getV 0xF#4 = 1) ∧
      ((∀ py px, SpriteCovers s x y n py px → s.fb.pixel py px = false) → t.getV 0xF#4 = 0) ∧
      ∀ r, r ≠ 0xF#4 → t.getV r = s.getV r) ∧
    (n ≠ 0 → s.i.toNat + n.toNat - 1 > 0xFFF →
      Raises (.drw x y n) s .addressOutOfRange (addr16 (max s.i.toNat 0x1000)))

/-- R130 (b), the source's double-draw property: the same sprite drawn twice at the same place leaves the frame buffer
exactly as it was, and VF after the second draw is 1 iff some sprite pixel was on after the first. The coordinates
must not stand in VF, which the first draw overwrites. -/
def Obligations.DrawingTwiceRestoresTheFrame : Prop :=
  ∀ (s : State) (x y n : Nibble), x ≠ 0xF#4 → y ≠ 0xF#4 → (n = 0 ∨ s.i.toNat + n.toNat - 1 ≤ 0xFFF) →
    ∃ t u, exec (.drw x y n) s = .next t ∧ exec (.drw x y n) t = .next u ∧ u.fb = s.fb ∧
      (u.getV 0xF#4 = 1 ↔ ∃ py px, SpriteCovers s x y n py px ∧ t.fb.pixel py px = true)

/-- R131: CLS turns every pixel off, sets DIRTY and leaves VF and everything else. -/
def Obligations.ClsClearsTheFrame : Prop :=
  ∀ s : State, ∃ t, exec .cls s = .next t ∧ t = { s with fb := t.fb, dirty := true, pc := s.pc + 2 } ∧
    ∀ y x, t.fb.pixel y x = false

/-! ### Keys and timers (44_input.md, 45_timers.md) -/

/-- R140, R141: SKP and SKNP test the key numbered by the low nibble of `VX`, by its level in this cycle's sample. -/
def Obligations.KeySkipsTestTheSample : Prop :=
  ∀ (s : State) (x : Nibble),
    exec (.skp x) s =
      .next { s with pc := if s.key.getLsbD ((s.getV x).toNat % 16) = true then s.pc + 4 else s.pc + 2 } ∧
    exec (.sknp x) s =
      .next { s with pc := if s.key.getLsbD ((s.getV x).toNat % 16) = false then s.pc + 4 else s.pc + 2 }

/-- R142: wait-for-key stores the number of a key that is down now and was up in the previous cycle, the lowest such
key by default, and advances; when there is none, nothing changes and `PC` stays. -/
def Obligations.WaitForKeyStoresANewKey : Prop :=
  ∀ (s : State) (x : Nibble),
    ((∃ k < 16, s.key.getLsbD k = true ∧ s.keyPrev.getLsbD k = false) →
      ∃ t k, exec (.ldVxK x) s = .next t ∧ t = { s with v := t.v, pc := s.pc + 2 } ∧ k < 16 ∧
        s.key.getLsbD k = true ∧ s.keyPrev.getLsbD k = false ∧
        (s.params.keyPick = .lowest → ∀ j < k, s.key.getLsbD j = true → s.keyPrev.getLsbD j = true) ∧
        ∀ r, t.getV r = if r = x then BitVec.ofNat 8 k else s.getV r) ∧
    ((∀ k < 16, s.key.getLsbD k = true → s.keyPrev.getLsbD k = true) → exec (.ldVxK x) s = .next s)

/-- R150 to R152: the timer registers are read and written directly; `PRESC` is not touched. -/
def Obligations.TimerAccessIsDirect : Prop :=
  ∀ (s : State) (x : Nibble),
    (∃ t, exec (.ldVxDt x) s = .next t ∧ t = { s with v := t.v, pc := s.pc + 2 } ∧
      ∀ r, t.getV r = if r = x then s.dt else s.getV r) ∧
    exec (.ldDtVx x) s = .next { s with dt := s.getV x, pc := s.pc + 2 } ∧
    exec (.ldStVx x) s = .next { s with st := s.getV x, pc := s.pc + 2 }

/-! ### The whole machine -/

/-- Every instruction, in every state, answers a next state: none is refused and none ends the model. That an
instruction which faults answers one too is the model's reading of R165 (log 10, DEDUCED). -/
def Obligations.EveryInstructionAnswersANextState : Prop :=
  ∀ (i : Instr) (s : State), ∃ t, exec i s = .next t

/-- R160 to R164: on a running core each kind of fault is raised by an instruction exactly for its cause. -/
def Obligations.FaultsHaveExactlyTheirCauses : Prop :=
  ∀ (i : Instr) (s t : State), s.fault = .running → exec i s = .next t →
    (t.fault = .unknownInstruction ↔ (∃ nnn, i = .sys nnn) ∧ s.params.sysIsNop = false) ∧
    (t.fault = .stackOverflow ↔ (∃ nnn, i = .call nnn) ∧ s.sp.val = 24) ∧
    (t.fault = .stackUnderflow ↔ i = .ret ∧ s.sp.val = 0) ∧
    (t.fault = .addressOutOfRange ↔
      (∃ x, i = .ldB x ∧ s.i.toNat > 0xFFD) ∨
      (∃ x : Nibble, (i = .ldStore x ∨ i = .ldLoad x) ∧ s.i.toNat + x.toNat > 0xFFF) ∨
      (∃ x y n : Nibble, i = .drw x y n ∧ n ≠ 0 ∧ s.i.toNat + n.toNat - 1 > 0xFFF))

/-- R165: faults are precise. When a cycle of a running core ends halted, nothing changed but `FAULT`, `FAULT_INFO` and
the key sample (and the model's own record of the cycle's inputs). -/
def Obligations.FaultsArePrecise : Prop :=
  ∀ (s t : State) (k : Word) (r : Byte), s.fault = .running → s.nextEvent = .cycle k r → step s = .next t →
    t.fault ≠ .running → t = { s.started k r with fault := t.fault, faultInfo := t.faultInfo }

/-- R11, R12: an instruction writes no register but those the tables list; VF among them only for its writers. -/
def Obligations.OnlyListedRegistersAreWritten : Prop :=
  ∀ (i : Instr) (s t : State) (r : Nibble), exec i s = .next t → ¬mayWriteRegister s.params i r →
    t.getV r = s.getV r

/-- R17, R24, R25, R29, R13: only CALL and RET change the stack; only DRW and CLS the frame buffer and DIRTY; only
LD B and LD [I] memory; only LD I, ADD I, LD F and, when `LDST_INCREMENTS_I`, FX55 and FX65 change `I`. -/
def Obligations.EachMemoryHasItsOwnWriters : Prop :=
  ∀ (i : Instr) (s t : State), exec i s = .next t →
    (i ≠ .ret → (∀ nnn, i ≠ .call nnn) → t.sp = s.sp ∧ t.stack = s.stack) ∧
    (i ≠ .cls → (∀ x y n, i ≠ .drw x y n) → t.fb = s.fb ∧ t.dirty = s.dirty) ∧
    ((∀ x, i ≠ .ldB x) → (∀ x, i ≠ .ldStore x) → t.mem = s.mem) ∧
    ((∀ nnn, i ≠ .ldI nnn) → (∀ x, i ≠ .addI x) → (∀ x, i ≠ .ldF x) →
      (s.params.ldstIncrementsI = true → ∀ x, i ≠ .ldStore x ∧ i ≠ .ldLoad x) → t.i = s.i)

/-- R22, R23, R26, R27, R28: only FX15 writes DT and only FX18 ST; no instruction writes `KEY`, `KEYPREV`, `PRESC`, or
anything that is the model's own. -/
def Obligations.TimersAndInputsHaveNoOtherWriter : Prop :=
  ∀ (i : Instr) (s t : State), exec i s = .next t →
    ((∀ x, i ≠ .ldDtVx x) → t.dt = s.dt) ∧ ((∀ x, i ≠ .ldStVx x) → t.st = s.st) ∧ t.key = s.key ∧
    t.keyPrev = s.keyPrev ∧ t.presc = s.presc ∧ t.params = s.params ∧ t.pending = s.pending ∧
    t.freeInputs = s.freeInputs ∧ t.rndIn = s.rndIn ∧ t.loadOpen = s.loadOpen

/-- R15: on a running core an instruction that faults leaves `PC`; one that is no jump, no skip and no key wait
advances it by 2; a skip by 2 or 4; a key wait by 2 or not at all. -/
def Obligations.ProgramCounterFollowsItsTable : Prop :=
  ∀ (i : Instr) (s t : State), s.fault = .running → exec i s = .next t →
    (t.fault ≠ .running → t.pc = s.pc) ∧
    (t.fault = .running → i ≠ .ret → (∀ nnn, i ≠ .jp nnn ∧ i ≠ .call nnn ∧ i ≠ .jpV0 nnn) →
      (t.pc = s.pc + 2 ∨
        (t.pc = s.pc + 4 ∧ ((∃ x nn, i = .seImm x nn ∨ i = .sneImm x nn) ∨
          (∃ x y low, i = .seReg x y low ∨ i = .sneReg x y low) ∨ ∃ x, i = .skp x ∨ i = .sknp x)) ∨
        (t = s ∧ ∃ x, i = .ldVxK x)))

/-- R184: the random byte matters to RND only. -/
def Obligations.RandomByteMattersToRndOnly : Prop :=
  ∀ (i : Instr) (s t : State) (r : Byte), (∀ x nn, i ≠ .rnd x nn) → exec i s = .next t →
    exec i { s with rndIn := r } = .next { t with rndIn := r }

/-- R26, R27: the key sample matters to EX9E, EXA1 and FX0A only, and the previous sample to FX0A only. -/
def Obligations.KeysMatterToKeyInstructionsOnly : Prop :=
  ∀ (i : Instr) (s t : State) (k p : Word), (∀ x, i ≠ .ldVxK x) → exec i s = .next t →
    exec i { s with keyPrev := p } = .next { t with keyPrev := p } ∧
    ((∀ x, i ≠ .skp x ∧ i ≠ .sknp x) → exec i { s with key := k } = .next { t with key := k })

/-- R23, R25, R28: no instruction reads the sound timer, the dirty flag or the prescaler. FX18 writes the same ST whatever
they were, CLS and a DRW in range write `DIRTY` = 1 whatever they were, and what an instruction does not write keeps the
value it had. -/
def Obligations.OutputsAreReadByNoInstruction : Prop :=
  ∀ (i : Instr) (s t : State) (a : Byte) (p : Nat) (d : Bool), exec i s = .next t →
    ∃ u, exec i { s with st := a, presc := p, dirty := d } = .next u ∧
      u = { t with st := u.st, presc := p, dirty := u.dirty } ∧
      ((∀ x, i ≠ .ldStVx x) → u.st = a) ∧ ((∃ x, i = .ldStVx x) → u.st = t.st) ∧
      ((i = .cls ∨ ∃ x y n : Nibble, i = .drw x y n ∧ (n = 0 ∨ s.i.toNat + n.toNat - 1 ≤ 0xFFF)) → u.dirty = true) ∧
      (i ≠ .cls → (∀ x y n : Nibble, i = .drw x y n → n ≠ 0 ∧ s.i.toNat + n.toNat - 1 > 0xFFF) → u.dirty = d)

/-- The invariant `Inv` holds after reset. -/
def Obligations.ResetHasTheInvariant : Prop := Inv State.reset

/-- Whatever the event, a step keeps the invariant `Inv`: canonical memory, `PC` at most 0x10FE (R14), return
addresses at most 0x1000 (R81), `PRESC` in its range (R28), `KEYPREV` = `KEY` while running (R27), and what each fault
records (R31, R165). The bounds of R14 and R81 are marked as derived in the spec. -/
def Obligations.EveryStepKeepsTheInvariant : Prop :=
  ∀ s t : State, Inv s → step s = .next t → Inv t

/-- R194: in a finished state (the word at `PC` jumps to `PC`) a cycle leaves everything of the core but `KEY` and
`KEYPREV`, and the state it leaves is finished again. The definition of "finished" is one the spec offers (D27). -/
def Obligations.FinishedRunStaysPut : Prop :=
  ∀ (s : State) (k : Word) (r : Byte), s.finished → s.nextEvent = .cycle k r →
    ∃ t, step s = .next t ∧ t = { s.started k r with keyPrev := k } ∧ t.finished
end

