-- ==== Sys2Proof/Laws/Decode.lean ====
section
/-! SUPPORT. The fields (R61) of a word put together from its parts, and a word put together from its fields. -/

namespace Sys2Proof

variable (op x y n : Nibble) (nn : Byte) (nnn : Addr12)

/-! ### Format NNN -/
@[simp] theorem fieldOp_nnn : fieldOp (op ++ nnn) = op := by unfold fieldOp; ext i h; simp; grind
@[simp] theorem fieldNNN_nnn : fieldNNN (op ++ nnn) = nnn := by unfold fieldNNN; ext i h; simp; grind

/-! ### Formats XNN and X -/
@[simp] theorem fieldOp_xnn : fieldOp (op ++ x ++ nn) = op := by unfold fieldOp; ext i h; simp; grind
@[simp] theorem fieldX_xnn : fieldX (op ++ x ++ nn) = x := by unfold fieldX; ext i h; simp; grind
@[simp] theorem fieldNN_xnn : fieldNN (op ++ x ++ nn) = nn := by unfold fieldNN; ext i h; simp; grind

/-! ### Formats XY and XYN -/
@[simp] theorem fieldOp_xyn : fieldOp (op ++ x ++ y ++ n) = op := by unfold fieldOp; ext i h; simp; grind
@[simp] theorem fieldX_xyn : fieldX (op ++ x ++ y ++ n) = x := by unfold fieldX; ext i h; simp; grind
@[simp] theorem fieldY_xyn : fieldY (op ++ x ++ y ++ n) = y := by unfold fieldY; ext i h; simp; grind
@[simp] theorem fieldN_xyn : fieldN (op ++ x ++ y ++ n) = n := by unfold fieldN; ext i h; simp; grind

/-! ### From its fields back to the word -/
theorem word_of_nnn (w : Word) : fieldOp w ++ fieldNNN w = w := by
  unfold fieldOp fieldNNN; ext i h; simp; grind
theorem word_of_xnn (w : Word) : fieldOp w ++ fieldX w ++ fieldNN w = w := by
  unfold fieldOp fieldX fieldNN; ext i h; simp; grind
theorem word_of_xyn (w : Word) : fieldOp w ++ fieldX w ++ fieldY w ++ fieldN w = w := by
  unfold fieldOp fieldX fieldY fieldN; ext i h; simp; grind

/-! ### A word under the masks of R64 -/
theorem and_maskOp (w : Word) : w &&& 0xF000#16 = fieldOp w ++ 0x000#12 := by
  have h : 0xF000#16 = 0xF#4 ++ 0x000#12 := rfl
  rw [h]; unfold fieldOp; ext i hi; interval_cases i <;> simp <;> grind
theorem and_maskOpN (w : Word) : w &&& 0xF00F#16 = fieldOp w ++ 0x0#4 ++ 0x0#4 ++ fieldN w := by
  have h : 0xF00F#16 = 0xF#4 ++ 0x0#4 ++ 0x0#4 ++ 0xF#4 := rfl
  rw [h]; unfold fieldOp fieldN; ext i hi; interval_cases i <;> simp <;> grind
theorem and_maskOpNN (w : Word) : w &&& 0xF0FF#16 = fieldOp w ++ 0x0#4 ++ fieldNN w := by
  have h : 0xF0FF#16 = 0xF#4 ++ 0x0#4 ++ 0xFF#8 := rfl
  rw [h]; unfold fieldOp fieldNN; ext i hi; interval_cases i <;> simp <;> grind
theorem and_maskAll (w : Word) : w &&& 0xFFFF#16 = w := BitVec.and_allOnes

/-! ### Which nibbles there are -/
/-- A nibble that is none of 0 to 14 is 15. -/
theorem nibble_eq_fifteen {a : Nibble} (h : ∀ k < 15, a ≠ BitVec.ofNat 4 k) : a = 0xF#4 := by
  have lt := a.isLt
  rcases Nat.lt_or_ge a.toNat 15 with hl | hg
  · exact absurd (BitVec.eq_of_toNat_eq (by simp)) (h a.toNat hl)
  · exact BitVec.eq_of_toNat_eq (by simp; omega)

/-! ### Bytes -/
/-- The two bytes of a word, high byte first, make the word (R45). -/
@[simp] theorem wordOfBytes_bytes (w : Word) : wordOfBytes (highByte w) (lowByte w) = w := by
  unfold wordOfBytes highByte lowByte; ext i h; simp; grind

end Sys2Proof
end

