-- ==== Sys2Proof/Laws/State.lean ====
section
/-! SUPPORT. Each named update of the state, field by field: what it sets and what it leaves. -/

namespace Sys2Proof.Machine


/-! ### `setV` -/

@[simp] theorem State.setV_mem (r : Nibble) (b : Byte) (s : State) : (s.setV r b).mem = s.mem := rfl
@[simp] theorem State.setV_v (r : Nibble) (b : Byte) (s : State) : (s.setV r b).v = s.v.set r.toNat b r.isLt := rfl
@[simp] theorem State.setV_i (r : Nibble) (b : Byte) (s : State) : (s.setV r b).i = s.i := rfl
@[simp] theorem State.setV_pc (r : Nibble) (b : Byte) (s : State) : (s.setV r b).pc = s.pc := rfl
@[simp] theorem State.setV_stack (r : Nibble) (b : Byte) (s : State) : (s.setV r b).stack = s.stack := rfl
@[simp] theorem State.setV_sp (r : Nibble) (b : Byte) (s : State) : (s.setV r b).sp = s.sp := rfl
@[simp] theorem State.setV_dt (r : Nibble) (b : Byte) (s : State) : (s.setV r b).dt = s.dt := rfl
@[simp] theorem State.setV_st (r : Nibble) (b : Byte) (s : State) : (s.setV r b).st = s.st := rfl
@[simp] theorem State.setV_fb (r : Nibble) (b : Byte) (s : State) : (s.setV r b).fb = s.fb := rfl
@[simp] theorem State.setV_dirty (r : Nibble) (b : Byte) (s : State) : (s.setV r b).dirty = s.dirty := rfl
@[simp] theorem State.setV_key (r : Nibble) (b : Byte) (s : State) : (s.setV r b).key = s.key := rfl
@[simp] theorem State.setV_keyPrev (r : Nibble) (b : Byte) (s : State) : (s.setV r b).keyPrev = s.keyPrev := rfl
@[simp] theorem State.setV_presc (r : Nibble) (b : Byte) (s : State) : (s.setV r b).presc = s.presc := rfl
@[simp] theorem State.setV_fault (r : Nibble) (b : Byte) (s : State) : (s.setV r b).fault = s.fault := rfl
@[simp] theorem State.setV_faultInfo (r : Nibble) (b : Byte) (s : State) : (s.setV r b).faultInfo = s.faultInfo := rfl
@[simp] theorem State.setV_params (r : Nibble) (b : Byte) (s : State) : (s.setV r b).params = s.params := rfl
@[simp] theorem State.setV_pending (r : Nibble) (b : Byte) (s : State) : (s.setV r b).pending = s.pending := rfl
@[simp] theorem State.setV_freeInputs (r : Nibble) (b : Byte) (s : State) : (s.setV r b).freeInputs = s.freeInputs := rfl
@[simp] theorem State.setV_rndIn (r : Nibble) (b : Byte) (s : State) : (s.setV r b).rndIn = s.rndIn := rfl
@[simp] theorem State.setV_loadOpen (r : Nibble) (b : Byte) (s : State) : (s.setV r b).loadOpen = s.loadOpen := rfl

/-! ### `setI` -/

@[simp] theorem State.setI_mem (a : Word) (s : State) : (s.setI a).mem = s.mem := rfl
@[simp] theorem State.setI_v (a : Word) (s : State) : (s.setI a).v = s.v := rfl
@[simp] theorem State.setI_i (a : Word) (s : State) : (s.setI a).i = a := rfl
@[simp] theorem State.setI_pc (a : Word) (s : State) : (s.setI a).pc = s.pc := rfl
@[simp] theorem State.setI_stack (a : Word) (s : State) : (s.setI a).stack = s.stack := rfl
@[simp] theorem State.setI_sp (a : Word) (s : State) : (s.setI a).sp = s.sp := rfl
@[simp] theorem State.setI_dt (a : Word) (s : State) : (s.setI a).dt = s.dt := rfl
@[simp] theorem State.setI_st (a : Word) (s : State) : (s.setI a).st = s.st := rfl
@[simp] theorem State.setI_fb (a : Word) (s : State) : (s.setI a).fb = s.fb := rfl
@[simp] theorem State.setI_dirty (a : Word) (s : State) : (s.setI a).dirty = s.dirty := rfl
@[simp] theorem State.setI_key (a : Word) (s : State) : (s.setI a).key = s.key := rfl
@[simp] theorem State.setI_keyPrev (a : Word) (s : State) : (s.setI a).keyPrev = s.keyPrev := rfl
@[simp] theorem State.setI_presc (a : Word) (s : State) : (s.setI a).presc = s.presc := rfl
@[simp] theorem State.setI_fault (a : Word) (s : State) : (s.setI a).fault = s.fault := rfl
@[simp] theorem State.setI_faultInfo (a : Word) (s : State) : (s.setI a).faultInfo = s.faultInfo := rfl
@[simp] theorem State.setI_params (a : Word) (s : State) : (s.setI a).params = s.params := rfl
@[simp] theorem State.setI_pending (a : Word) (s : State) : (s.setI a).pending = s.pending := rfl
@[simp] theorem State.setI_freeInputs (a : Word) (s : State) : (s.setI a).freeInputs = s.freeInputs := rfl
@[simp] theorem State.setI_rndIn (a : Word) (s : State) : (s.setI a).rndIn = s.rndIn := rfl
@[simp] theorem State.setI_loadOpen (a : Word) (s : State) : (s.setI a).loadOpen = s.loadOpen := rfl

/-! ### `setMem` -/

@[simp] theorem State.setMem_mem (m : Memory) (s : State) : (s.setMem m).mem = m := rfl
@[simp] theorem State.setMem_v (m : Memory) (s : State) : (s.setMem m).v = s.v := rfl
@[simp] theorem State.setMem_i (m : Memory) (s : State) : (s.setMem m).i = s.i := rfl
@[simp] theorem State.setMem_pc (m : Memory) (s : State) : (s.setMem m).pc = s.pc := rfl
@[simp] theorem State.setMem_stack (m : Memory) (s : State) : (s.setMem m).stack = s.stack := rfl
@[simp] theorem State.setMem_sp (m : Memory) (s : State) : (s.setMem m).sp = s.sp := rfl
@[simp] theorem State.setMem_dt (m : Memory) (s : State) : (s.setMem m).dt = s.dt := rfl
@[simp] theorem State.setMem_st (m : Memory) (s : State) : (s.setMem m).st = s.st := rfl
@[simp] theorem State.setMem_fb (m : Memory) (s : State) : (s.setMem m).fb = s.fb := rfl
@[simp] theorem State.setMem_dirty (m : Memory) (s : State) : (s.setMem m).dirty = s.dirty := rfl
@[simp] theorem State.setMem_key (m : Memory) (s : State) : (s.setMem m).key = s.key := rfl
@[simp] theorem State.setMem_keyPrev (m : Memory) (s : State) : (s.setMem m).keyPrev = s.keyPrev := rfl
@[simp] theorem State.setMem_presc (m : Memory) (s : State) : (s.setMem m).presc = s.presc := rfl
@[simp] theorem State.setMem_fault (m : Memory) (s : State) : (s.setMem m).fault = s.fault := rfl
@[simp] theorem State.setMem_faultInfo (m : Memory) (s : State) : (s.setMem m).faultInfo = s.faultInfo := rfl
@[simp] theorem State.setMem_params (m : Memory) (s : State) : (s.setMem m).params = s.params := rfl
@[simp] theorem State.setMem_pending (m : Memory) (s : State) : (s.setMem m).pending = s.pending := rfl
@[simp] theorem State.setMem_freeInputs (m : Memory) (s : State) : (s.setMem m).freeInputs = s.freeInputs := rfl
@[simp] theorem State.setMem_rndIn (m : Memory) (s : State) : (s.setMem m).rndIn = s.rndIn := rfl
@[simp] theorem State.setMem_loadOpen (m : Memory) (s : State) : (s.setMem m).loadOpen = s.loadOpen := rfl

/-! ### `advance` -/

@[simp] theorem State.advance_mem (s : State) : (s.advance).mem = s.mem := rfl
@[simp] theorem State.advance_v (s : State) : (s.advance).v = s.v := rfl
@[simp] theorem State.advance_i (s : State) : (s.advance).i = s.i := rfl
@[simp] theorem State.advance_pc (s : State) : (s.advance).pc = s.pc + 2 := rfl
@[simp] theorem State.advance_stack (s : State) : (s.advance).stack = s.stack := rfl
@[simp] theorem State.advance_sp (s : State) : (s.advance).sp = s.sp := rfl
@[simp] theorem State.advance_dt (s : State) : (s.advance).dt = s.dt := rfl
@[simp] theorem State.advance_st (s : State) : (s.advance).st = s.st := rfl
@[simp] theorem State.advance_fb (s : State) : (s.advance).fb = s.fb := rfl
@[simp] theorem State.advance_dirty (s : State) : (s.advance).dirty = s.dirty := rfl
@[simp] theorem State.advance_key (s : State) : (s.advance).key = s.key := rfl
@[simp] theorem State.advance_keyPrev (s : State) : (s.advance).keyPrev = s.keyPrev := rfl
@[simp] theorem State.advance_presc (s : State) : (s.advance).presc = s.presc := rfl
@[simp] theorem State.advance_fault (s : State) : (s.advance).fault = s.fault := rfl
@[simp] theorem State.advance_faultInfo (s : State) : (s.advance).faultInfo = s.faultInfo := rfl
@[simp] theorem State.advance_params (s : State) : (s.advance).params = s.params := rfl
@[simp] theorem State.advance_pending (s : State) : (s.advance).pending = s.pending := rfl
@[simp] theorem State.advance_freeInputs (s : State) : (s.advance).freeInputs = s.freeInputs := rfl
@[simp] theorem State.advance_rndIn (s : State) : (s.advance).rndIn = s.rndIn := rfl
@[simp] theorem State.advance_loadOpen (s : State) : (s.advance).loadOpen = s.loadOpen := rfl

/-! ### `skipIf` -/

@[simp] theorem State.skipIf_mem (c : Bool) (s : State) : (s.skipIf c).mem = s.mem := rfl
@[simp] theorem State.skipIf_v (c : Bool) (s : State) : (s.skipIf c).v = s.v := rfl
@[simp] theorem State.skipIf_i (c : Bool) (s : State) : (s.skipIf c).i = s.i := rfl
@[simp] theorem State.skipIf_pc (c : Bool) (s : State) : (s.skipIf c).pc = if c then s.pc + 4 else s.pc + 2 := rfl
@[simp] theorem State.skipIf_stack (c : Bool) (s : State) : (s.skipIf c).stack = s.stack := rfl
@[simp] theorem State.skipIf_sp (c : Bool) (s : State) : (s.skipIf c).sp = s.sp := rfl
@[simp] theorem State.skipIf_dt (c : Bool) (s : State) : (s.skipIf c).dt = s.dt := rfl
@[simp] theorem State.skipIf_st (c : Bool) (s : State) : (s.skipIf c).st = s.st := rfl
@[simp] theorem State.skipIf_fb (c : Bool) (s : State) : (s.skipIf c).fb = s.fb := rfl
@[simp] theorem State.skipIf_dirty (c : Bool) (s : State) : (s.skipIf c).dirty = s.dirty := rfl
@[simp] theorem State.skipIf_key (c : Bool) (s : State) : (s.skipIf c).key = s.key := rfl
@[simp] theorem State.skipIf_keyPrev (c : Bool) (s : State) : (s.skipIf c).keyPrev = s.keyPrev := rfl
@[simp] theorem State.skipIf_presc (c : Bool) (s : State) : (s.skipIf c).presc = s.presc := rfl
@[simp] theorem State.skipIf_fault (c : Bool) (s : State) : (s.skipIf c).fault = s.fault := rfl
@[simp] theorem State.skipIf_faultInfo (c : Bool) (s : State) : (s.skipIf c).faultInfo = s.faultInfo := rfl
@[simp] theorem State.skipIf_params (c : Bool) (s : State) : (s.skipIf c).params = s.params := rfl
@[simp] theorem State.skipIf_pending (c : Bool) (s : State) : (s.skipIf c).pending = s.pending := rfl
@[simp] theorem State.skipIf_freeInputs (c : Bool) (s : State) : (s.skipIf c).freeInputs = s.freeInputs := rfl
@[simp] theorem State.skipIf_rndIn (c : Bool) (s : State) : (s.skipIf c).rndIn = s.rndIn := rfl
@[simp] theorem State.skipIf_loadOpen (c : Bool) (s : State) : (s.skipIf c).loadOpen = s.loadOpen := rfl

/-! ### `jump` -/

@[simp] theorem State.jump_mem (a : Word) (s : State) : (s.jump a).mem = s.mem := rfl
@[simp] theorem State.jump_v (a : Word) (s : State) : (s.jump a).v = s.v := rfl
@[simp] theorem State.jump_i (a : Word) (s : State) : (s.jump a).i = s.i := rfl
@[simp] theorem State.jump_pc (a : Word) (s : State) : (s.jump a).pc = a := rfl
@[simp] theorem State.jump_stack (a : Word) (s : State) : (s.jump a).stack = s.stack := rfl
@[simp] theorem State.jump_sp (a : Word) (s : State) : (s.jump a).sp = s.sp := rfl
@[simp] theorem State.jump_dt (a : Word) (s : State) : (s.jump a).dt = s.dt := rfl
@[simp] theorem State.jump_st (a : Word) (s : State) : (s.jump a).st = s.st := rfl
@[simp] theorem State.jump_fb (a : Word) (s : State) : (s.jump a).fb = s.fb := rfl
@[simp] theorem State.jump_dirty (a : Word) (s : State) : (s.jump a).dirty = s.dirty := rfl
@[simp] theorem State.jump_key (a : Word) (s : State) : (s.jump a).key = s.key := rfl
@[simp] theorem State.jump_keyPrev (a : Word) (s : State) : (s.jump a).keyPrev = s.keyPrev := rfl
@[simp] theorem State.jump_presc (a : Word) (s : State) : (s.jump a).presc = s.presc := rfl
@[simp] theorem State.jump_fault (a : Word) (s : State) : (s.jump a).fault = s.fault := rfl
@[simp] theorem State.jump_faultInfo (a : Word) (s : State) : (s.jump a).faultInfo = s.faultInfo := rfl
@[simp] theorem State.jump_params (a : Word) (s : State) : (s.jump a).params = s.params := rfl
@[simp] theorem State.jump_pending (a : Word) (s : State) : (s.jump a).pending = s.pending := rfl
@[simp] theorem State.jump_freeInputs (a : Word) (s : State) : (s.jump a).freeInputs = s.freeInputs := rfl
@[simp] theorem State.jump_rndIn (a : Word) (s : State) : (s.jump a).rndIn = s.rndIn := rfl
@[simp] theorem State.jump_loadOpen (a : Word) (s : State) : (s.jump a).loadOpen = s.loadOpen := rfl

/-! ### `raise` -/

@[simp] theorem State.raise_mem (k : FaultKind) (info : Word) (s : State) : (s.raise k info).mem = s.mem := rfl
@[simp] theorem State.raise_v (k : FaultKind) (info : Word) (s : State) : (s.raise k info).v = s.v := rfl
@[simp] theorem State.raise_i (k : FaultKind) (info : Word) (s : State) : (s.raise k info).i = s.i := rfl
@[simp] theorem State.raise_pc (k : FaultKind) (info : Word) (s : State) : (s.raise k info).pc = s.pc := rfl
@[simp] theorem State.raise_stack (k : FaultKind) (info : Word) (s : State) : (s.raise k info).stack = s.stack := rfl
@[simp] theorem State.raise_sp (k : FaultKind) (info : Word) (s : State) : (s.raise k info).sp = s.sp := rfl
@[simp] theorem State.raise_dt (k : FaultKind) (info : Word) (s : State) : (s.raise k info).dt = s.dt := rfl
@[simp] theorem State.raise_st (k : FaultKind) (info : Word) (s : State) : (s.raise k info).st = s.st := rfl
@[simp] theorem State.raise_fb (k : FaultKind) (info : Word) (s : State) : (s.raise k info).fb = s.fb := rfl
@[simp] theorem State.raise_dirty (k : FaultKind) (info : Word) (s : State) : (s.raise k info).dirty = s.dirty := rfl
@[simp] theorem State.raise_key (k : FaultKind) (info : Word) (s : State) : (s.raise k info).key = s.key := rfl
@[simp] theorem State.raise_keyPrev (k : FaultKind) (info : Word) (s : State) : (s.raise k info).keyPrev = s.keyPrev := rfl
@[simp] theorem State.raise_presc (k : FaultKind) (info : Word) (s : State) : (s.raise k info).presc = s.presc := rfl
@[simp] theorem State.raise_fault (k : FaultKind) (info : Word) (s : State) : (s.raise k info).fault = k := rfl
@[simp] theorem State.raise_faultInfo (k : FaultKind) (info : Word) (s : State) : (s.raise k info).faultInfo = info := rfl
@[simp] theorem State.raise_params (k : FaultKind) (info : Word) (s : State) : (s.raise k info).params = s.params := rfl
@[simp] theorem State.raise_pending (k : FaultKind) (info : Word) (s : State) : (s.raise k info).pending = s.pending := rfl
@[simp] theorem State.raise_freeInputs (k : FaultKind) (info : Word) (s : State) : (s.raise k info).freeInputs = s.freeInputs := rfl
@[simp] theorem State.raise_rndIn (k : FaultKind) (info : Word) (s : State) : (s.raise k info).rndIn = s.rndIn := rfl
@[simp] theorem State.raise_loadOpen (k : FaultKind) (info : Word) (s : State) : (s.raise k info).loadOpen = s.loadOpen := rfl

/-! ### `setFrame` -/

@[simp] theorem State.setFrame_mem (fb : FrameBuffer) (s : State) : (s.setFrame fb).mem = s.mem := rfl
@[simp] theorem State.setFrame_v (fb : FrameBuffer) (s : State) : (s.setFrame fb).v = s.v := rfl
@[simp] theorem State.setFrame_i (fb : FrameBuffer) (s : State) : (s.setFrame fb).i = s.i := rfl
@[simp] theorem State.setFrame_pc (fb : FrameBuffer) (s : State) : (s.setFrame fb).pc = s.pc := rfl
@[simp] theorem State.setFrame_stack (fb : FrameBuffer) (s : State) : (s.setFrame fb).stack = s.stack := rfl
@[simp] theorem State.setFrame_sp (fb : FrameBuffer) (s : State) : (s.setFrame fb).sp = s.sp := rfl
@[simp] theorem State.setFrame_dt (fb : FrameBuffer) (s : State) : (s.setFrame fb).dt = s.dt := rfl
@[simp] theorem State.setFrame_st (fb : FrameBuffer) (s : State) : (s.setFrame fb).st = s.st := rfl
@[simp] theorem State.setFrame_fb (fb : FrameBuffer) (s : State) : (s.setFrame fb).fb = fb := rfl
@[simp] theorem State.setFrame_dirty (fb : FrameBuffer) (s : State) : (s.setFrame fb).dirty = true := rfl
@[simp] theorem State.setFrame_key (fb : FrameBuffer) (s : State) : (s.setFrame fb).key = s.key := rfl
@[simp] theorem State.setFrame_keyPrev (fb : FrameBuffer) (s : State) : (s.setFrame fb).keyPrev = s.keyPrev := rfl
@[simp] theorem State.setFrame_presc (fb : FrameBuffer) (s : State) : (s.setFrame fb).presc = s.presc := rfl
@[simp] theorem State.setFrame_fault (fb : FrameBuffer) (s : State) : (s.setFrame fb).fault = s.fault := rfl
@[simp] theorem State.setFrame_faultInfo (fb : FrameBuffer) (s : State) : (s.setFrame fb).faultInfo = s.faultInfo := rfl
@[simp] theorem State.setFrame_params (fb : FrameBuffer) (s : State) : (s.setFrame fb).params = s.params := rfl
@[simp] theorem State.setFrame_pending (fb : FrameBuffer) (s : State) : (s.setFrame fb).pending = s.pending := rfl
@[simp] theorem State.setFrame_freeInputs (fb : FrameBuffer) (s : State) : (s.setFrame fb).freeInputs = s.freeInputs := rfl
@[simp] theorem State.setFrame_rndIn (fb : FrameBuffer) (s : State) : (s.setFrame fb).rndIn = s.rndIn := rfl
@[simp] theorem State.setFrame_loadOpen (fb : FrameBuffer) (s : State) : (s.setFrame fb).loadOpen = s.loadOpen := rfl

/-! ### `setResultFlag` -/

@[simp] theorem State.setResultFlag_mem (x : Nibble) (b : Byte) (c : Bool) (s : State) : (s.setResultFlag x b c).mem = s.mem := rfl
@[simp] theorem State.setResultFlag_v (x : Nibble) (b : Byte) (c : Bool) (s : State) : (s.setResultFlag x b c).v = (s.v.set x.toNat b x.isLt).set 15 (flagByte c) := rfl
@[simp] theorem State.setResultFlag_i (x : Nibble) (b : Byte) (c : Bool) (s : State) : (s.setResultFlag x b c).i = s.i := rfl
@[simp] theorem State.setResultFlag_pc (x : Nibble) (b : Byte) (c : Bool) (s : State) : (s.setResultFlag x b c).pc = s.pc := rfl
@[simp] theorem State.setResultFlag_stack (x : Nibble) (b : Byte) (c : Bool) (s : State) : (s.setResultFlag x b c).stack = s.stack := rfl
@[simp] theorem State.setResultFlag_sp (x : Nibble) (b : Byte) (c : Bool) (s : State) : (s.setResultFlag x b c).sp = s.sp := rfl
@[simp] theorem State.setResultFlag_dt (x : Nibble) (b : Byte) (c : Bool) (s : State) : (s.setResultFlag x b c).dt = s.dt := rfl
@[simp] theorem State.setResultFlag_st (x : Nibble) (b : Byte) (c : Bool) (s : State) : (s.setResultFlag x b c).st = s.st := rfl
@[simp] theorem State.setResultFlag_fb (x : Nibble) (b : Byte) (c : Bool) (s : State) : (s.setResultFlag x b c).fb = s.fb := rfl
@[simp] theorem State.setResultFlag_dirty (x : Nibble) (b : Byte) (c : Bool) (s : State) : (s.setResultFlag x b c).dirty = s.dirty := rfl
@[simp] theorem State.setResultFlag_key (x : Nibble) (b : Byte) (c : Bool) (s : State) : (s.setResultFlag x b c).key = s.key := rfl
@[simp] theorem State.setResultFlag_keyPrev (x : Nibble) (b : Byte) (c : Bool) (s : State) : (s.setResultFlag x b c).keyPrev = s.keyPrev := rfl
@[simp] theorem State.setResultFlag_presc (x : Nibble) (b : Byte) (c : Bool) (s : State) : (s.setResultFlag x b c).presc = s.presc := rfl
@[simp] theorem State.setResultFlag_fault (x : Nibble) (b : Byte) (c : Bool) (s : State) : (s.setResultFlag x b c).fault = s.fault := rfl
@[simp] theorem State.setResultFlag_faultInfo (x : Nibble) (b : Byte) (c : Bool) (s : State) : (s.setResultFlag x b c).faultInfo = s.faultInfo := rfl
@[simp] theorem State.setResultFlag_params (x : Nibble) (b : Byte) (c : Bool) (s : State) : (s.setResultFlag x b c).params = s.params := rfl
@[simp] theorem State.setResultFlag_pending (x : Nibble) (b : Byte) (c : Bool) (s : State) : (s.setResultFlag x b c).pending = s.pending := rfl
@[simp] theorem State.setResultFlag_freeInputs (x : Nibble) (b : Byte) (c : Bool) (s : State) : (s.setResultFlag x b c).freeInputs = s.freeInputs := rfl
@[simp] theorem State.setResultFlag_rndIn (x : Nibble) (b : Byte) (c : Bool) (s : State) : (s.setResultFlag x b c).rndIn = s.rndIn := rfl
@[simp] theorem State.setResultFlag_loadOpen (x : Nibble) (b : Byte) (c : Bool) (s : State) : (s.setResultFlag x b c).loadOpen = s.loadOpen := rfl

/-! ### `setLogic` -/

@[simp] theorem State.setLogic_mem (x : Nibble) (b : Byte) (s : State) : (s.setLogic x b).mem = s.mem := by unfold State.setLogic; split <;> rfl
@[simp] theorem State.setLogic_i (x : Nibble) (b : Byte) (s : State) : (s.setLogic x b).i = s.i := by unfold State.setLogic; split <;> rfl
@[simp] theorem State.setLogic_pc (x : Nibble) (b : Byte) (s : State) : (s.setLogic x b).pc = s.pc := by unfold State.setLogic; split <;> rfl
@[simp] theorem State.setLogic_stack (x : Nibble) (b : Byte) (s : State) : (s.setLogic x b).stack = s.stack := by unfold State.setLogic; split <;> rfl
@[simp] theorem State.setLogic_sp (x : Nibble) (b : Byte) (s : State) : (s.setLogic x b).sp = s.sp := by unfold State.setLogic; split <;> rfl
@[simp] theorem State.setLogic_dt (x : Nibble) (b : Byte) (s : State) : (s.setLogic x b).dt = s.dt := by unfold State.setLogic; split <;> rfl
@[simp] theorem State.setLogic_st (x : Nibble) (b : Byte) (s : State) : (s.setLogic x b).st = s.st := by unfold State.setLogic; split <;> rfl
@[simp] theorem State.setLogic_fb (x : Nibble) (b : Byte) (s : State) : (s.setLogic x b).fb = s.fb := by unfold State.setLogic; split <;> rfl
@[simp] theorem State.setLogic_dirty (x : Nibble) (b : Byte) (s : State) : (s.setLogic x b).dirty = s.dirty := by unfold State.setLogic; split <;> rfl
@[simp] theorem State.setLogic_key (x : Nibble) (b : Byte) (s : State) : (s.setLogic x b).key = s.key := by unfold State.setLogic; split <;> rfl
@[simp] theorem State.setLogic_keyPrev (x : Nibble) (b : Byte) (s : State) : (s.setLogic x b).keyPrev = s.keyPrev := by unfold State.setLogic; split <;> rfl
@[simp] theorem State.setLogic_presc (x : Nibble) (b : Byte) (s : State) : (s.setLogic x b).presc = s.presc := by unfold State.setLogic; split <;> rfl
@[simp] theorem State.setLogic_fault (x : Nibble) (b : Byte) (s : State) : (s.setLogic x b).fault = s.fault := by unfold State.setLogic; split <;> rfl
@[simp] theorem State.setLogic_faultInfo (x : Nibble) (b : Byte) (s : State) : (s.setLogic x b).faultInfo = s.faultInfo := by unfold State.setLogic; split <;> rfl
@[simp] theorem State.setLogic_params (x : Nibble) (b : Byte) (s : State) : (s.setLogic x b).params = s.params := by unfold State.setLogic; split <;> rfl
@[simp] theorem State.setLogic_pending (x : Nibble) (b : Byte) (s : State) : (s.setLogic x b).pending = s.pending := by unfold State.setLogic; split <;> rfl
@[simp] theorem State.setLogic_freeInputs (x : Nibble) (b : Byte) (s : State) : (s.setLogic x b).freeInputs = s.freeInputs := by unfold State.setLogic; split <;> rfl
@[simp] theorem State.setLogic_rndIn (x : Nibble) (b : Byte) (s : State) : (s.setLogic x b).rndIn = s.rndIn := by unfold State.setLogic; split <;> rfl
@[simp] theorem State.setLogic_loadOpen (x : Nibble) (b : Byte) (s : State) : (s.setLogic x b).loadOpen = s.loadOpen := by unfold State.setLogic; split <;> rfl

/-! ### `whileRunning` -/

/-- What a guarded event leaves in one field. -/
theorem State.whileRunning_proj {α : Type} (p : State → α) (f : State → State) (s : State) :
    p (s.whileRunning f) = if s.halted = true then p s else p (f s) := apply_ite p _ _ _

/-- A field that `f` keeps is kept, halted or not. -/
theorem State.whileRunning_keeps {α : Type} (p : State → α) {f : State → State} {s : State} (h : p (f s) = p s) :
    p (s.whileRunning f) = p s := by rw [State.whileRunning_proj p, h, ite_self]

/-! ### `countTimers` -/

@[simp] theorem State.countTimers_mem (s : State) : (s.countTimers).mem = s.mem := rfl
@[simp] theorem State.countTimers_v (s : State) : (s.countTimers).v = s.v := rfl
@[simp] theorem State.countTimers_i (s : State) : (s.countTimers).i = s.i := rfl
@[simp] theorem State.countTimers_pc (s : State) : (s.countTimers).pc = s.pc := rfl
@[simp] theorem State.countTimers_stack (s : State) : (s.countTimers).stack = s.stack := rfl
@[simp] theorem State.countTimers_sp (s : State) : (s.countTimers).sp = s.sp := rfl
@[simp] theorem State.countTimers_dt (s : State) : (s.countTimers).dt = countDown s.dt := rfl
@[simp] theorem State.countTimers_st (s : State) : (s.countTimers).st = countDown s.st := rfl
@[simp] theorem State.countTimers_fb (s : State) : (s.countTimers).fb = s.fb := rfl
@[simp] theorem State.countTimers_dirty (s : State) : (s.countTimers).dirty = s.dirty := rfl
@[simp] theorem State.countTimers_key (s : State) : (s.countTimers).key = s.key := rfl
@[simp] theorem State.countTimers_keyPrev (s : State) : (s.countTimers).keyPrev = s.keyPrev := rfl
@[simp] theorem State.countTimers_presc (s : State) : (s.countTimers).presc = s.presc := rfl
@[simp] theorem State.countTimers_fault (s : State) : (s.countTimers).fault = s.fault := rfl
@[simp] theorem State.countTimers_faultInfo (s : State) : (s.countTimers).faultInfo = s.faultInfo := rfl
@[simp] theorem State.countTimers_params (s : State) : (s.countTimers).params = s.params := rfl
@[simp] theorem State.countTimers_pending (s : State) : (s.countTimers).pending = s.pending := rfl
@[simp] theorem State.countTimers_freeInputs (s : State) : (s.countTimers).freeInputs = s.freeInputs := rfl
@[simp] theorem State.countTimers_rndIn (s : State) : (s.countTimers).rndIn = s.rndIn := rfl
@[simp] theorem State.countTimers_loadOpen (s : State) : (s.countTimers).loadOpen = s.loadOpen := rfl

/-! ### `tick` -/

@[simp] theorem State.tick_mem (s : State) : (s.tick).mem = s.mem := State.whileRunning_keeps State.mem rfl
@[simp] theorem State.tick_v (s : State) : (s.tick).v = s.v := State.whileRunning_keeps State.v rfl
@[simp] theorem State.tick_i (s : State) : (s.tick).i = s.i := State.whileRunning_keeps State.i rfl
@[simp] theorem State.tick_pc (s : State) : (s.tick).pc = s.pc := State.whileRunning_keeps State.pc rfl
@[simp] theorem State.tick_stack (s : State) : (s.tick).stack = s.stack := State.whileRunning_keeps State.stack rfl
@[simp] theorem State.tick_sp (s : State) : (s.tick).sp = s.sp := State.whileRunning_keeps State.sp rfl
@[simp] theorem State.tick_dt (s : State) : (s.tick).dt = if s.halted = true then s.dt else countDown s.dt :=
  State.whileRunning_proj State.dt _ s
@[simp] theorem State.tick_st (s : State) : (s.tick).st = if s.halted = true then s.st else countDown s.st :=
  State.whileRunning_proj State.st _ s
@[simp] theorem State.tick_fb (s : State) : (s.tick).fb = s.fb := State.whileRunning_keeps State.fb rfl
@[simp] theorem State.tick_dirty (s : State) : (s.tick).dirty = s.dirty := State.whileRunning_keeps State.dirty rfl
@[simp] theorem State.tick_key (s : State) : (s.tick).key = s.key := State.whileRunning_keeps State.key rfl
@[simp] theorem State.tick_keyPrev (s : State) : (s.tick).keyPrev = s.keyPrev := State.whileRunning_keeps State.keyPrev rfl
@[simp] theorem State.tick_presc (s : State) : (s.tick).presc = s.presc := State.whileRunning_keeps State.presc rfl
@[simp] theorem State.tick_fault (s : State) : (s.tick).fault = s.fault := State.whileRunning_keeps State.fault rfl
@[simp] theorem State.tick_faultInfo (s : State) : (s.tick).faultInfo = s.faultInfo := State.whileRunning_keeps State.faultInfo rfl
@[simp] theorem State.tick_params (s : State) : (s.tick).params = s.params := State.whileRunning_keeps State.params rfl
@[simp] theorem State.tick_pending (s : State) : (s.tick).pending = s.pending := State.whileRunning_keeps State.pending rfl
@[simp] theorem State.tick_freeInputs (s : State) : (s.tick).freeInputs = s.freeInputs := State.whileRunning_keeps State.freeInputs rfl
@[simp] theorem State.tick_rndIn (s : State) : (s.tick).rndIn = s.rndIn := State.whileRunning_keeps State.rndIn rfl
@[simp] theorem State.tick_loadOpen (s : State) : (s.tick).loadOpen = s.loadOpen := State.whileRunning_keeps State.loadOpen rfl

/-! ### `setClean` -/

@[simp] theorem State.setClean_mem (s : State) : (s.setClean).mem = s.mem := rfl
@[simp] theorem State.setClean_v (s : State) : (s.setClean).v = s.v := rfl
@[simp] theorem State.setClean_i (s : State) : (s.setClean).i = s.i := rfl
@[simp] theorem State.setClean_pc (s : State) : (s.setClean).pc = s.pc := rfl
@[simp] theorem State.setClean_stack (s : State) : (s.setClean).stack = s.stack := rfl
@[simp] theorem State.setClean_sp (s : State) : (s.setClean).sp = s.sp := rfl
@[simp] theorem State.setClean_dt (s : State) : (s.setClean).dt = s.dt := rfl
@[simp] theorem State.setClean_st (s : State) : (s.setClean).st = s.st := rfl
@[simp] theorem State.setClean_fb (s : State) : (s.setClean).fb = s.fb := rfl
@[simp] theorem State.setClean_dirty (s : State) : (s.setClean).dirty = false := rfl
@[simp] theorem State.setClean_key (s : State) : (s.setClean).key = s.key := rfl
@[simp] theorem State.setClean_keyPrev (s : State) : (s.setClean).keyPrev = s.keyPrev := rfl
@[simp] theorem State.setClean_presc (s : State) : (s.setClean).presc = s.presc := rfl
@[simp] theorem State.setClean_fault (s : State) : (s.setClean).fault = s.fault := rfl
@[simp] theorem State.setClean_faultInfo (s : State) : (s.setClean).faultInfo = s.faultInfo := rfl
@[simp] theorem State.setClean_params (s : State) : (s.setClean).params = s.params := rfl
@[simp] theorem State.setClean_pending (s : State) : (s.setClean).pending = s.pending := rfl
@[simp] theorem State.setClean_freeInputs (s : State) : (s.setClean).freeInputs = s.freeInputs := rfl
@[simp] theorem State.setClean_rndIn (s : State) : (s.setClean).rndIn = s.rndIn := rfl
@[simp] theorem State.setClean_loadOpen (s : State) : (s.setClean).loadOpen = s.loadOpen := rfl

/-! ### `clearDirty` -/

@[simp] theorem State.clearDirty_mem (s : State) : (s.clearDirty).mem = s.mem := State.whileRunning_keeps State.mem rfl
@[simp] theorem State.clearDirty_v (s : State) : (s.clearDirty).v = s.v := State.whileRunning_keeps State.v rfl
@[simp] theorem State.clearDirty_i (s : State) : (s.clearDirty).i = s.i := State.whileRunning_keeps State.i rfl
@[simp] theorem State.clearDirty_pc (s : State) : (s.clearDirty).pc = s.pc := State.whileRunning_keeps State.pc rfl
@[simp] theorem State.clearDirty_stack (s : State) : (s.clearDirty).stack = s.stack := State.whileRunning_keeps State.stack rfl
@[simp] theorem State.clearDirty_sp (s : State) : (s.clearDirty).sp = s.sp := State.whileRunning_keeps State.sp rfl
@[simp] theorem State.clearDirty_dt (s : State) : (s.clearDirty).dt = s.dt := State.whileRunning_keeps State.dt rfl
@[simp] theorem State.clearDirty_st (s : State) : (s.clearDirty).st = s.st := State.whileRunning_keeps State.st rfl
@[simp] theorem State.clearDirty_fb (s : State) : (s.clearDirty).fb = s.fb := State.whileRunning_keeps State.fb rfl
@[simp] theorem State.clearDirty_dirty (s : State) : (s.clearDirty).dirty = if s.halted = true then s.dirty else false :=
  State.whileRunning_proj State.dirty _ s
@[simp] theorem State.clearDirty_key (s : State) : (s.clearDirty).key = s.key := State.whileRunning_keeps State.key rfl
@[simp] theorem State.clearDirty_keyPrev (s : State) : (s.clearDirty).keyPrev = s.keyPrev := State.whileRunning_keeps State.keyPrev rfl
@[simp] theorem State.clearDirty_presc (s : State) : (s.clearDirty).presc = s.presc := State.whileRunning_keeps State.presc rfl
@[simp] theorem State.clearDirty_fault (s : State) : (s.clearDirty).fault = s.fault := State.whileRunning_keeps State.fault rfl
@[simp] theorem State.clearDirty_faultInfo (s : State) : (s.clearDirty).faultInfo = s.faultInfo := State.whileRunning_keeps State.faultInfo rfl
@[simp] theorem State.clearDirty_params (s : State) : (s.clearDirty).params = s.params := State.whileRunning_keeps State.params rfl
@[simp] theorem State.clearDirty_pending (s : State) : (s.clearDirty).pending = s.pending := State.whileRunning_keeps State.pending rfl
@[simp] theorem State.clearDirty_freeInputs (s : State) : (s.clearDirty).freeInputs = s.freeInputs := State.whileRunning_keeps State.freeInputs rfl
@[simp] theorem State.clearDirty_rndIn (s : State) : (s.clearDirty).rndIn = s.rndIn := State.whileRunning_keeps State.rndIn rfl
@[simp] theorem State.clearDirty_loadOpen (s : State) : (s.clearDirty).loadOpen = s.loadOpen := State.whileRunning_keeps State.loadOpen rfl

/-! ### `takeEvent` -/

@[simp] theorem State.takeEvent_mem (s : State) : (s.takeEvent).mem = s.mem := rfl
@[simp] theorem State.takeEvent_v (s : State) : (s.takeEvent).v = s.v := rfl
@[simp] theorem State.takeEvent_i (s : State) : (s.takeEvent).i = s.i := rfl
@[simp] theorem State.takeEvent_pc (s : State) : (s.takeEvent).pc = s.pc := rfl
@[simp] theorem State.takeEvent_stack (s : State) : (s.takeEvent).stack = s.stack := rfl
@[simp] theorem State.takeEvent_sp (s : State) : (s.takeEvent).sp = s.sp := rfl
@[simp] theorem State.takeEvent_dt (s : State) : (s.takeEvent).dt = s.dt := rfl
@[simp] theorem State.takeEvent_st (s : State) : (s.takeEvent).st = s.st := rfl
@[simp] theorem State.takeEvent_fb (s : State) : (s.takeEvent).fb = s.fb := rfl
@[simp] theorem State.takeEvent_dirty (s : State) : (s.takeEvent).dirty = s.dirty := rfl
@[simp] theorem State.takeEvent_key (s : State) : (s.takeEvent).key = s.key := rfl
@[simp] theorem State.takeEvent_keyPrev (s : State) : (s.takeEvent).keyPrev = s.keyPrev := rfl
@[simp] theorem State.takeEvent_presc (s : State) : (s.takeEvent).presc = s.presc := rfl
@[simp] theorem State.takeEvent_fault (s : State) : (s.takeEvent).fault = s.fault := rfl
@[simp] theorem State.takeEvent_faultInfo (s : State) : (s.takeEvent).faultInfo = s.faultInfo := rfl
@[simp] theorem State.takeEvent_params (s : State) : (s.takeEvent).params = s.params := rfl
@[simp] theorem State.takeEvent_pending (s : State) : (s.takeEvent).pending = s.pending.tail := rfl
@[simp] theorem State.takeEvent_freeInputs (s : State) : (s.takeEvent).freeInputs = s.freeInputs + 1 := rfl
@[simp] theorem State.takeEvent_rndIn (s : State) : (s.takeEvent).rndIn = s.rndIn := rfl
@[simp] theorem State.takeEvent_loadOpen (s : State) : (s.takeEvent).loadOpen = s.loadOpen := rfl

/-! ### `sample` -/

@[simp] theorem State.sample_mem (k : Word) (r : Byte) (s : State) : (s.sample k r).mem = s.mem := rfl
@[simp] theorem State.sample_v (k : Word) (r : Byte) (s : State) : (s.sample k r).v = s.v := rfl
@[simp] theorem State.sample_i (k : Word) (r : Byte) (s : State) : (s.sample k r).i = s.i := rfl
@[simp] theorem State.sample_pc (k : Word) (r : Byte) (s : State) : (s.sample k r).pc = s.pc := rfl
@[simp] theorem State.sample_stack (k : Word) (r : Byte) (s : State) : (s.sample k r).stack = s.stack := rfl
@[simp] theorem State.sample_sp (k : Word) (r : Byte) (s : State) : (s.sample k r).sp = s.sp := rfl
@[simp] theorem State.sample_dt (k : Word) (r : Byte) (s : State) : (s.sample k r).dt = s.dt := rfl
@[simp] theorem State.sample_st (k : Word) (r : Byte) (s : State) : (s.sample k r).st = s.st := rfl
@[simp] theorem State.sample_fb (k : Word) (r : Byte) (s : State) : (s.sample k r).fb = s.fb := rfl
@[simp] theorem State.sample_dirty (k : Word) (r : Byte) (s : State) : (s.sample k r).dirty = s.dirty := rfl
@[simp] theorem State.sample_key (k : Word) (r : Byte) (s : State) : (s.sample k r).key = k := rfl
@[simp] theorem State.sample_keyPrev (k : Word) (r : Byte) (s : State) : (s.sample k r).keyPrev = s.keyPrev := rfl
@[simp] theorem State.sample_presc (k : Word) (r : Byte) (s : State) : (s.sample k r).presc = s.presc := rfl
@[simp] theorem State.sample_fault (k : Word) (r : Byte) (s : State) : (s.sample k r).fault = s.fault := rfl
@[simp] theorem State.sample_faultInfo (k : Word) (r : Byte) (s : State) : (s.sample k r).faultInfo = s.faultInfo := rfl
@[simp] theorem State.sample_params (k : Word) (r : Byte) (s : State) : (s.sample k r).params = s.params := rfl
@[simp] theorem State.sample_pending (k : Word) (r : Byte) (s : State) : (s.sample k r).pending = s.pending := rfl
@[simp] theorem State.sample_freeInputs (k : Word) (r : Byte) (s : State) : (s.sample k r).freeInputs = s.freeInputs := rfl
@[simp] theorem State.sample_rndIn (k : Word) (r : Byte) (s : State) : (s.sample k r).rndIn = r := rfl
@[simp] theorem State.sample_loadOpen (k : Word) (r : Byte) (s : State) : (s.sample k r).loadOpen = false := rfl

/-! ### `latchKeys` -/

@[simp] theorem State.latchKeys_mem (s : State) : (s.latchKeys).mem = s.mem := by unfold State.latchKeys; split <;> rfl
@[simp] theorem State.latchKeys_v (s : State) : (s.latchKeys).v = s.v := by unfold State.latchKeys; split <;> rfl
@[simp] theorem State.latchKeys_i (s : State) : (s.latchKeys).i = s.i := by unfold State.latchKeys; split <;> rfl
@[simp] theorem State.latchKeys_pc (s : State) : (s.latchKeys).pc = s.pc := by unfold State.latchKeys; split <;> rfl
@[simp] theorem State.latchKeys_stack (s : State) : (s.latchKeys).stack = s.stack := by unfold State.latchKeys; split <;> rfl
@[simp] theorem State.latchKeys_sp (s : State) : (s.latchKeys).sp = s.sp := by unfold State.latchKeys; split <;> rfl
@[simp] theorem State.latchKeys_dt (s : State) : (s.latchKeys).dt = s.dt := by unfold State.latchKeys; split <;> rfl
@[simp] theorem State.latchKeys_st (s : State) : (s.latchKeys).st = s.st := by unfold State.latchKeys; split <;> rfl
@[simp] theorem State.latchKeys_fb (s : State) : (s.latchKeys).fb = s.fb := by unfold State.latchKeys; split <;> rfl
@[simp] theorem State.latchKeys_dirty (s : State) : (s.latchKeys).dirty = s.dirty := by unfold State.latchKeys; split <;> rfl
@[simp] theorem State.latchKeys_key (s : State) : (s.latchKeys).key = s.key := by unfold State.latchKeys; split <;> rfl
@[simp] theorem State.latchKeys_presc (s : State) : (s.latchKeys).presc = s.presc := by unfold State.latchKeys; split <;> rfl
@[simp] theorem State.latchKeys_fault (s : State) : (s.latchKeys).fault = s.fault := by unfold State.latchKeys; split <;> rfl
@[simp] theorem State.latchKeys_faultInfo (s : State) : (s.latchKeys).faultInfo = s.faultInfo := by unfold State.latchKeys; split <;> rfl
@[simp] theorem State.latchKeys_params (s : State) : (s.latchKeys).params = s.params := by unfold State.latchKeys; split <;> rfl
@[simp] theorem State.latchKeys_pending (s : State) : (s.latchKeys).pending = s.pending := by unfold State.latchKeys; split <;> rfl
@[simp] theorem State.latchKeys_freeInputs (s : State) : (s.latchKeys).freeInputs = s.freeInputs := by unfold State.latchKeys; split <;> rfl
@[simp] theorem State.latchKeys_rndIn (s : State) : (s.latchKeys).rndIn = s.rndIn := by unfold State.latchKeys; split <;> rfl
@[simp] theorem State.latchKeys_loadOpen (s : State) : (s.latchKeys).loadOpen = s.loadOpen := by unfold State.latchKeys; split <;> rfl

end Sys2Proof.Machine
end

