-- ==== Sys2Proof/Laws/Registers.lean ====
section
/-! SUPPORT. Registers: a read after a write, and the flag-writing updates register by register (R113). -/

namespace Sys2Proof.Machine

/-- Reading a register depends on the register file only. -/
theorem State.getV_congr {s t : State} (h : s.v = t.v) (r : Nibble) : s.getV r = t.getV r := by
  unfold State.getV; simp [h]

theorem State.getV_setV (s : State) (x r : Nibble) (b : Byte) :
    (s.setV x b).getV r = if r = x then b else s.getV r := by
  simp only [State.getV, State.setV, Vector.getElem_set, BitVec.toNat_inj]
  by_cases h : x = r
  · simp [h]
  · simp [h, Ne.symm h]

@[simp] theorem State.getV_setV_same (s : State) (x : Nibble) (b : Byte) : (s.setV x b).getV x = b := by
  simp [State.getV_setV]

theorem State.getV_setV_ne {x r : Nibble} (h : r ≠ x) (s : State) (b : Byte) : (s.setV x b).getV r = s.getV r := by
  simp [State.getV_setV, h]

@[simp] theorem State.getV_advance (s : State) (r : Nibble) : s.advance.getV r = s.getV r := rfl
@[simp] theorem State.getV_setI (s : State) (a : Word) (r : Nibble) : (s.setI a).getV r = s.getV r := rfl
@[simp] theorem State.getV_setMem (s : State) (m : Memory) (r : Nibble) : (s.setMem m).getV r = s.getV r := rfl
@[simp] theorem State.getV_setFrame (s : State) (fb : FrameBuffer) (r : Nibble) :
    (s.setFrame fb).getV r = s.getV r := rfl

/-- VF holds the flag, whatever `X` is; every other register is as after the result write (R113). -/
theorem State.getV_setResultFlag (s : State) (x r : Nibble) (b : Byte) (c : Bool) :
    (s.setResultFlag x b c).getV r = if r = 0xF#4 then flagByte c else if r = x then b else s.getV r := by
  simp only [State.setResultFlag, State.getV_setV]

/-- The logical instructions (R103 to R105): VF is 0 when `LOGIC_RESETS_VF`. -/
theorem State.getV_setLogic (s : State) (x r : Nibble) (b : Byte) :
    (s.setLogic x b).getV r =
      if s.params.logicResetsVf = true ∧ r = 0xF#4 then 0 else if r = x then b else s.getV r := by
  unfold State.setLogic
  by_cases h : s.params.logicResetsVf = true <;> simp [h, State.getV_setV]

@[simp] theorem flagByte_true : flagByte true = 1 := rfl
@[simp] theorem flagByte_false : flagByte false = 0 := rfl

theorem flagByte_toNat (c : Bool) : (flagByte c).toNat = c.toNat := by cases c <;> rfl

/-! ### Register ranges (R124, R125) -/

theorem State.firstRegisters_length (s : State) (x : Nibble) : (s.firstRegisters x).length = rangeCount x := by
  have := x.isLt
  simp [State.firstRegisters, rangeCount]; omega

theorem State.firstRegisters_getElem (s : State) (x r : Nibble) (h : r.toNat < (s.firstRegisters x).length) :
    (s.firstRegisters x)[r.toNat] = s.getV r := by
  simp [State.firstRegisters, State.getV]

theorem loadRegisters_getElem (m : Memory) (base : Nat) (v : Registers) (n k : Nat) (hn : n ≤ 16) (hk : k < 16) :
    (loadRegisters m base n v)[k] = if k < n then m.read (base + k) else v[k] := by
  induction n with
  | zero => simp [loadRegisters]
  | succ n ih =>
    rw [loadRegisters, Vector.getElem_setIfInBounds, ih (by omega)]
    rcases Nat.lt_trichotomy k n with h | rfl | h
    · simp [show ¬n = k by omega, h, show k < n + 1 by omega]
    · simp
    · simp [show ¬n = k by omega, show ¬k < n by omega, show ¬k < n + 1 by omega]

end Sys2Proof.Machine
end

