-- ==== Sys2Proof/Laws/Ops.lean ====
section
/-! SUPPORT. What each shared operation can do: the address decoder and its guard, the call stack, faults. -/

namespace Sys2Proof.Machine

/-! ### The address decoder (R43, R126) -/

theorem rangeError_none {base n : Nat} (h : n = 0 ∨ base + n ≤ memSize) : rangeError base n = none := if_pos h

theorem rangeError_some {base n : Nat} (h0 : n ≠ 0) (h : memSize < base + n) :
    rangeError base n = some (BitVec.ofNat 16 (max base memSize)) := if_neg (by omega)

/-- The guard passes exactly when no address is out of range. -/
theorem withRange_inRange {n : Nat} {s : State} (h : n = 0 ∨ s.i.toNat + n ≤ memSize) (body : State) :
    withRange n s body = .next body := by
  rw [withRange, rangeError_none h]

/-- The guard raises AddressOutOfRange with the lowest bad address, and nothing of the body happens. -/
theorem withRange_outOfRange {n : Nat} {s : State} (h0 : n ≠ 0) (h : memSize < s.i.toNat + n) (body : State) :
    withRange n s body = .next (s.raise .addressOutOfRange (BitVec.ofNat 16 (max s.i.toNat memSize))) := by
  rw [withRange, rangeError_some h0 h]; rfl

/-- All that a guarded instruction can answer. -/
theorem withRange_cases {n : Nat} {s body t : State} (h : withRange n s body = .next t) :
    ((n = 0 ∨ s.i.toNat + n ≤ memSize) ∧ t = body) ∨
      (n ≠ 0 ∧ memSize < s.i.toNat + n ∧ t = s.raise .addressOutOfRange (BitVec.ofNat 16 (max s.i.toNat memSize))) := by
  by_cases hr : n = 0 ∨ s.i.toNat + n ≤ memSize
  · rw [withRange_inRange hr] at h
    cases h
    exact .inl ⟨hr, rfl⟩
  · have h0 : n ≠ 0 := fun h => hr (.inl h)
    have hlt : memSize < s.i.toNat + n := by omega
    rw [withRange_outOfRange h0 hlt] at h
    cases h
    exact .inr ⟨h0, hlt, rfl⟩

/-- The address an AddressOutOfRange records lies above 0xFFF. -/
theorem badAddress_ge (base : Nat) (h : base < 65536) : 0x1000 ≤ (BitVec.ofNat 16 (max base memSize)).toNat := by
  simp only [BitVec.toNat_ofNat, memSize]; omega

/-! ### The call stack (R20, R21) -/

/-- All that `Push` can answer. -/
theorem State.push_cases (s : State) (a : Word) :
    (s.sp.val = 24 ∧ s.push a = none) ∨
      (∃ (h : s.sp.val < 24), s.push a =
        some { s with stack := s.stack.set s.sp.val a h, sp := ⟨s.sp.val + 1, Nat.succ_lt_succ h⟩ }) := by
  by_cases h : s.sp.val < stackDepth
  · exact .inr ⟨h, dif_pos h⟩
  · have := s.sp.isLt
    exact .inl ⟨by simp only [stackDepth] at h; omega, dif_neg h⟩

/-- All that `Pop` can answer. -/
theorem State.pop_cases (s : State) :
    (s.sp.val = 0 ∧ s.pop = none) ∨
      (∃ (k : Nat) (h : k < 24), s.sp.val = k + 1 ∧
        s.pop = some (s.stack[k], { s with sp := ⟨k, Nat.lt_succ_of_lt h⟩ })) := by
  by_cases h : s.sp.val = 0
  · exact .inl ⟨h, dif_pos h⟩
  · have := s.sp.isLt
    refine .inr ⟨s.sp.val - 1, by omega, by omega, dif_neg h⟩

/-! ### Faults (R166) -/

theorem State.halted_iff (s : State) : s.halted = true ↔ s.fault ≠ .running := by simp [State.halted]

theorem State.not_halted {s : State} (h : s.fault = .running) : s.halted = false := by simp [State.halted, h]

theorem State.whileRunning_running {s : State} (h : s.fault = .running) (f : State → State) : s.whileRunning f = f s := by
  simp [State.whileRunning, State.not_halted h]

theorem State.whileRunning_halted {s : State} (h : s.fault ≠ .running) (f : State → State) : s.whileRunning f = s := by
  simp [State.whileRunning, (State.halted_iff s).mpr h]

theorem State.latchKeys_running {s : State} (h : s.fault = .running) : s.latchKeys = { s with keyPrev := s.key } := by
  simp [State.latchKeys, State.not_halted h]

theorem State.latchKeys_halted {s : State} (h : s.fault ≠ .running) : s.latchKeys = s := by
  simp [State.latchKeys, (State.halted_iff s).mpr h]

end Sys2Proof.Machine
end

