-- ==== Sys2Proof/Laws/Events.lean ====
section
/-! SUPPORT. What a step does for each next event, and what fetch answers. -/

namespace Sys2Proof.Machine

theorem step_eq (s : State) : step s = runEvent s.nextEvent s.takeEvent := rfl

theorem State.nextEvent_cons {s : State} {e : Event} {es : List Event} (h : s.pending = e :: es) :
    s.nextEvent = e := by simp [State.nextEvent, h]

/-- The next event is the head of the list, or a cycle with free inputs. -/
theorem State.nextEvent_cases (s : State) :
    (∃ es, s.pending = s.nextEvent :: es) ∨ (s.pending = [] ∧ ∃ k r, s.nextEvent = .cycle k r) := by
  unfold State.nextEvent
  cases s.pending with
  | nil => exact .inr ⟨rfl, _, _, rfl⟩
  | cons e es => exact .inl ⟨es, rfl⟩

/-- On a halted core every event but `Reset` leaves the state (R166). -/
theorem runEvent_halted {e : Event} {s : State} (h : s.halted = true) (he : e ≠ .reset) : runEvent e s = .next s := by
  cases e <;> simp_all [runEvent, load, State.pulse, State.clearDirty, State.whileRunning]

/-- A cycle of a running core (R3). -/
theorem runEvent_cycle {s : State} (h : s.fault = .running) (k : Word) (r : Byte) :
    runEvent (.cycle k r) s = runInstruction (s.sample k r) := by simp [runEvent, State.not_halted h]

/-- A load of a running core (R192). -/
theorem load_running {s : State} (h : s.fault = .running) (a : Nat) (bs : List Byte) :
    load a bs s = if s.loadOpen = true then
      .next (if a + bs.length ≤ memSize then s.setMem (s.mem.writeBytes a bs) else s)
      else .refused .loadAfterFirstCycle := by simp [load, State.not_halted h]

theorem State.clearDirty_running {s : State} (h : s.fault = .running) : s.clearDirty = s.setClean :=
  State.whileRunning_running h _

/-! ### Fetch (R44) -/

theorem State.fetch_inRange {s : State} (h : s.pc.toNat ≤ 0xFFE) :
    s.fetch = .ok (wordOfBytes (s.mem.read s.pc.toNat) (s.mem.read (s.pc.toNat + 1))) := by
  rw [State.fetch, rangeError_none (by simp only [memSize]; omega)]

theorem State.fetch_outOfRange {s : State} (h : 0xFFE < s.pc.toNat) :
    s.fetch = .error (BitVec.ofNat 16 (max s.pc.toNat memSize)) := by
  rw [State.fetch, rangeError_some (by omega) (by simp only [memSize]; omega)]

/-- Whatever is fetched was fetched from an address in range. -/
theorem State.fetch_ok {s : State} {w : Word} (h : s.fetch = .ok w) : s.pc.toNat ≤ 0xFFE := by
  by_contra hn
  rw [State.fetch_outOfRange (by omega)] at h
  cases h

/-- A word is always placed where both its bytes can be fetched. -/
theorem State.fetchablePc_le (s : State) : s.fetchablePc.toNat ≤ 0xFFE := by
  unfold State.fetchablePc
  split
  · rename_i h
    by_contra hc
    rw [rangeError_some (by omega) (by simp only [memSize]; omega)] at h
    simp at h
  · simp [progBase]

/-! ### The timers (R176, R177) -/

theorem countDown_toNat (t : Byte) : (countDown t).toNat = t.toNat - 1 := by
  unfold countDown
  split
  · subst_vars; rfl
  · rename_i h
    have : t.toNat ≠ 0 := fun h0 => h (BitVec.eq_of_toNat_eq h0)
    have := t.isLt
    rw [BitVec.toNat_sub, show (1 : Byte).toNat = 1 from rfl]
    omega

theorem State.tick_running {s : State} (h : s.fault = .running) : s.tick = s.countTimers :=
  State.whileRunning_running h _

theorem State.tick_halted {s : State} (h : s.fault ≠ .running) : s.tick = s := State.whileRunning_halted h _

/-- All that a pulse can do to a running core (R176). -/
theorem State.pulse_running {s : State} (h : s.fault = .running) (div : Nat) :
    s.pulse div = if s.presc = div - 1 then { s with presc := 0 }.countTimers else { s with presc := s.presc + 1 } := by
  rw [State.pulse, State.whileRunning_running h, State.prescale, State.tick_running (by exact h)]

theorem State.pulse_halted {s : State} (h : s.fault ≠ .running) (div : Nat) : s.pulse div = s :=
  State.whileRunning_halted h _

/-- No pulse starts or halts a core. -/
@[simp] theorem State.pulse_fault (s : State) (div : Nat) : (s.pulse div).fault = s.fault := by
  refine State.whileRunning_keeps State.fault ?_
  unfold State.prescale
  split <;> simp

@[simp] theorem State.advanceTime_fault (div n : Nat) (s : State) : (State.advanceTime div n s).fault = s.fault := by
  induction n with
  | zero => rfl
  | succ n ih => rw [State.advanceTime, State.pulse_fault, ih]

/-- The timers of a halted core are frozen (R166). -/
theorem State.advanceTime_halted {s : State} (h : s.fault ≠ .running) (div n : Nat) :
    State.advanceTime div n s = s := by
  induction n with
  | zero => rfl
  | succ n ih => rw [State.advanceTime, ih, State.pulse_halted h]

/-- The first of `n + 1` pulses may be split off instead of the last. -/
theorem State.advanceTime_succ (div n : Nat) (s : State) :
    State.advanceTime div (n + 1) s = State.advanceTime div n (s.pulse div) := by
  induction n with
  | zero => rfl
  | succ n ih => rw [State.advanceTime, ih, State.advanceTime]

/-- A pulse neither reads nor changes the events to come and the input counter. -/
theorem State.pulse_congr (s : State) (div : Nat) (es : List Event) (k : Nat) :
    { s with pending := es, freeInputs := k }.pulse div = { s.pulse div with pending := es, freeInputs := k } := by
  by_cases h : s.fault = .running
  · rw [State.pulse_running (by exact h), State.pulse_running h]
    by_cases hp : s.presc = div - 1 <;> simp [hp, State.countTimers]
  · rw [State.pulse_halted (by exact h), State.pulse_halted h]

theorem State.advanceTime_congr (div n : Nat) (s : State) (es : List Event) (k : Nat) :
    State.advanceTime div n { s with pending := es, freeInputs := k } =
      { State.advanceTime div n s with pending := es, freeInputs := k } := by
  induction n with
  | zero => rfl
  | succ n ih => rw [State.advanceTime, ih, State.pulse_congr]; rfl

end Sys2Proof.Machine
end

