-- ==== Sys2Proof/Laws/Operands.lean ====
section
/-! SUPPORT. What each operand form answers: addresses, the `I` of a register range, the keys of FX0A. -/

namespace Sys2Proof.Machine

theorem zextAddr_toNat (nnn : Addr12) : (zextAddr nnn).toNat = nnn.toNat := by simp [zextAddr]; omega

theorem zextByte_toNat (b : Byte) : (zextByte b).toNat = b.toNat := by simp [zextByte]; omega

/-- `zext_16(NNN) + zext_16(V0)` does not wrap: at most 0x10FE (R14, R88). -/
theorem zextAddr_add_zextByte (nnn : Addr12) (b : Byte) :
    (zextAddr nnn + zextByte b).toNat = nnn.toNat + b.toNat := by
  simp only [BitVec.toNat_add, zextAddr_toNat, zextByte_toNat]; omega

theorem lowNibble_toNat (b : Byte) : (lowNibble b).toNat = b.toNat % 16 := by simp [lowNibble]

/-- `I` after FX55 or FX65 (R124, R125). -/
theorem State.indexAfterRange_eq (s : State) (x : Nibble) :
    s.indexAfterRange x =
      if s.params.ldstIncrementsI = true then BitVec.ofNat 16 (s.i.toNat + x.toNat + 1) else s.i := by
  unfold State.indexAfterRange
  split
  · exact BitVec.eq_of_toNat_eq (by simp [rangeCount, Nat.add_assoc])
  · rfl

/-! ### Keys (R142) -/

/-- A key is new when it is down now and was up in the previous cycle. -/
theorem State.newKeys_getLsbD (s : State) (k : Nat) :
    s.newKeys.getLsbD k = true ↔ k < 16 ∧ s.key.getLsbD k = true ∧ s.keyPrev.getLsbD k = false := by
  simp [State.newKeys]; tauto

theorem State.newKeys_eq_zero (s : State) :
    s.newKeys = 0 ↔ ∀ k < 16, s.key.getLsbD k = true → s.keyPrev.getLsbD k = true := by
  constructor
  · intro h k hk h1
    by_contra h2
    have := (s.newKeys_getLsbD k).mpr ⟨hk, h1, by simpa using h2⟩
    rw [h] at this
    simp at this
  · intro h
    refine BitVec.eq_of_getLsbD_eq fun k hk => ?_
    by_contra hn
    obtain ⟨a, b, c⟩ := (s.newKeys_getLsbD k).mp (by simpa using hn)
    rw [h k a b] at c
    cases c

/-- The lowest key of a set that has one is in the set, and no lower key is. -/
theorem lowestKey_spec {w : Word} (h : w ≠ 0) :
    w.getLsbD (lowestKey w).toNat = true ∧ ∀ j < (lowestKey w).toNat, w.getLsbD j = false := by
  obtain ⟨k, hk, hw⟩ : ∃ k < 16, w.getLsbD k = true := by
    by_contra hn
    push Not at hn
    exact h (BitVec.eq_of_getLsbD_eq fun i hi => by simpa using hn i hi)
  obtain ⟨a, ha⟩ := Option.isSome_iff_exists.mp
    (List.find?_isSome.mpr ⟨k, by simpa [nKeys] using hk, hw⟩ : ((List.range nKeys).find? fun k => w.getLsbD k).isSome)
  have h2 : a < 16 := by simpa [nKeys] using List.mem_of_find?_eq_some ha
  have h3 : (lowestKey w).toNat = a := by simp [lowestKey, ha]; omega
  rw [h3]
  exact ⟨List.find?_some ha, fun j hj => by simpa using (List.find?_range_eq_some.mp ha).2.2 j hj⟩

/-- Whatever function `KEY_PICK` is, it answers a key of a set that has one. -/
theorem pickKey_mem (p : KeyPick) {w : Word} (h : w ≠ 0) : w.getLsbD (pickKey p w).toNat = true := by
  cases p with
  | lowest => exact (lowestKey_spec h).1
  | chosen =>
    unfold pickKey
    simp only
    split
    · assumption
    · exact (lowestKey_spec h).1

end Sys2Proof.Machine
end

