-- ==== Sys2Proof/Laws/Exec.lean ====
section
/-! SUPPORT. All that an instruction which can answer in more than one way can answer; every other meaning is
`Outcome.next` of one state by definition. -/

namespace Sys2Proof.Machine

theorem execSys_cases {nnn : Addr12} {s t : State} (h : exec (.sys nnn) s = .next t) :
    (s.params.sysIsNop = true ∧ t = s.advance) ∨
      (s.params.sysIsNop = false ∧ t = s.raise .unknownInstruction (zextAddr nnn)) := by
  simp only [exec, execSys, raiseFault] at h
  split at h <;> cases h
  · exact .inl ⟨‹_›, rfl⟩
  · exact .inr ⟨Bool.not_eq_true _ ▸ ‹_›, rfl⟩

theorem execRet_cases {s t : State} (h : exec .ret s = .next t) :
    (s.sp.val = 0 ∧ t = s.raise .stackUnderflow s.pc) ∨
      (∃ (k : Nat) (hk : k < 24), s.sp.val = k + 1 ∧
        t = { s with pc := s.stack[k], sp := ⟨k, Nat.lt_succ_of_lt hk⟩ }) := by
  rcases s.pop_cases with ⟨h0, hp⟩ | ⟨k, hk, hs, hp⟩ <;> simp only [exec, execRet, hp, raiseFault] at h <;> cases h
  · exact .inl ⟨h0, rfl⟩
  · exact .inr ⟨k, hk, hs, rfl⟩

theorem execCall_cases {nnn : Addr12} {s t : State} (h : exec (.call nnn) s = .next t) :
    (s.sp.val = 24 ∧ t = s.raise .stackOverflow s.pc) ∨
      (∃ h : s.sp.val < 24, t = { s with
        pc := zextAddr nnn, stack := s.stack.set s.sp.val (s.pc + 2) h, sp := ⟨s.sp.val + 1, Nat.succ_lt_succ h⟩ }) := by
  rcases s.push_cases (s.pc + 2) with ⟨h0, hp⟩ | ⟨hk, hp⟩ <;>
    simp only [exec, execCall, hp, raiseFault] at h <;> cases h
  · exact .inl ⟨h0, rfl⟩
  · exact .inr ⟨hk, rfl⟩

theorem execLdVxK_cases {x : Nibble} {s t : State} (h : exec (.ldVxK x) s = .next t) :
    (s.newKeys = 0 ∧ t = s) ∨
      (s.newKeys ≠ 0 ∧ t = (s.setV x ((pickKey s.params.keyPick s.newKeys).setWidth 8)).advance) := by
  simp only [exec, execLdVxK] at h
  cases h
  split
  · exact .inl ⟨‹_›, rfl⟩
  · exact .inr ⟨‹_›, rfl⟩

/-- What a cycle of a running core answers: a fetch fault, an unknown word, or its instruction (R3, R168). -/
theorem runInstruction_cases {s t : State} (h : runInstruction s = .next t) :
    (0xFFE < s.pc.toNat ∧ t = s.raise .addressOutOfRange (BitVec.ofNat 16 (max s.pc.toNat memSize))) ∨
      (∃ w, s.fetch = .ok w ∧
        (((∃ r, decodeWord w = .error r) ∧ t = s.raise .unknownInstruction w) ∨
          ∃ i u, decodeWord w = .ok i ∧ exec i s = .next u ∧ t = u.latchKeys)) := by
  rcases Nat.lt_or_ge 0xFFE s.pc.toNat with hp | hp
  · rw [runInstruction, State.fetch_outOfRange hp] at h
    cases h
    exact .inl ⟨hp, rfl⟩
  · refine .inr ⟨_, State.fetch_inRange hp, ?_⟩
    rw [runInstruction, State.fetch_inRange hp] at h
    simp only at h
    generalize wordOfBytes (s.mem.read s.pc.toNat) (s.mem.read (s.pc.toNat + 1)) = w at *
    cases hd : decodeWord w with
    | error r => rw [hd] at h; cases h; exact .inl ⟨⟨r, rfl⟩, rfl⟩
    | ok i =>
      rw [hd] at h
      simp only at h
      cases he : exec i s with
      | next u => rw [he] at h; cases h; exact .inr ⟨i, u, rfl, he, rfl⟩
      | fault r => rw [he] at h; cases h
      | refused r => rw [he] at h; cases h

end Sys2Proof.Machine
end

