-- ==== Sys2Proof/Laws/Graphics.lean ====
section
/-! SUPPORT. Drawing, pixel by pixel: what one toggle, one row and one sprite do to every pixel and to the collision
flag (R130, R132). -/

namespace Sys2Proof.Machine

/-! ### One pixel -/

theorem FrameBuffer.pixel_toggle (fb : FrameBuffer) (y y' : Fin 32) (x x' : Fin 64) :
    (fb.toggle y x).pixel y' x' = if y' = y ∧ x' = x then !fb.pixel y' x' else fb.pixel y' x' := by
  unfold FrameBuffer.pixel FrameBuffer.toggle
  by_cases hy : y' = y
  · subst hy
    by_cases hx : x' = x
    · subst hx; simp [BitVec.getElem_twoPow]
    · have : x'.val ≠ x.val := fun h => hx (Fin.ext h)
      simp [BitVec.getElem_twoPow, hx, this]
  · have : y.val ≠ y'.val := fun h => hy (Fin.ext h.symm)
    simp [hy, this]

/-- Two frame buffers with the same pixels are the same data. -/
theorem FrameBuffer.ext_pixel {fb fb' : FrameBuffer} (h : ∀ y x, fb.pixel y x = fb'.pixel y x) : fb = fb' := by
  refine Vector.ext fun y hy => BitVec.eq_of_getLsbD_eq fun x hx => ?_
  exact h ⟨y, hy⟩ ⟨x, hx⟩

theorem FrameBuffer.pixel_clear (y : Fin 32) (x : Fin 64) : FrameBuffer.pixel (Vector.replicate 32 0) y x = false := by
  simp [FrameBuffer.pixel]

/-! ### A set of pixels, each touched at most once -/

/-- `acc'` is `acc` with exactly the pixels of `P` toggled, and its flag says whether the flag was on or one of them
was. -/
structure Toggled (P : Fin 32 → Fin 64 → Prop) (acc acc' : FrameBuffer × Bool) : Prop where
  on : ∀ y x, P y x → acc'.1.pixel y x = !acc.1.pixel y x
  off : ∀ y x, ¬P y x → acc'.1.pixel y x = acc.1.pixel y x
  flag : acc'.2 = true ↔ acc.2 = true ∨ ∃ y x, P y x ∧ acc.1.pixel y x = true

theorem Toggled.refl (acc : FrameBuffer × Bool) : Toggled (fun _ _ => False) acc acc :=
  ⟨fun _ _ h => h.elim, fun _ _ _ => rfl, by simp⟩

/-- Toggling two disjoint sets of pixels one after the other toggles both. -/
theorem Toggled.trans {P Q : Fin 32 → Fin 64 → Prop} {a b c : FrameBuffer × Bool} (hP : Toggled P a b)
    (hQ : Toggled Q b c) (disj : ∀ y x, P y x → ¬Q y x) : Toggled (fun y x => P y x ∨ Q y x) a c where
  on := by
    rintro y x (h | h)
    · rw [hQ.off y x (disj y x h), hP.on y x h]
    · rw [hQ.on y x h, hP.off y x fun hp => disj y x hp h]
  off := by
    intro y x h
    rw [hQ.off y x fun hq => h (.inr hq), hP.off y x fun hp => h (.inl hp)]
  flag := by
    rw [hQ.flag, hP.flag, or_assoc]
    refine or_congr_right ⟨?_, ?_⟩
    · rintro (⟨y, x, hp, ha⟩ | ⟨y, x, hq, hb⟩)
      · exact ⟨y, x, .inl hp, ha⟩
      · exact ⟨y, x, .inr hq, by rwa [hP.off y x fun hp => disj y x hp hq] at hb⟩
    · rintro ⟨y, x, hp | hq, ha⟩
      · exact .inl ⟨y, x, hp, ha⟩
      · exact .inr ⟨y, x, hq, by rwa [hP.off y x fun hp => disj y x hp hq]⟩

theorem Toggled.congr {P Q : Fin 32 → Fin 64 → Prop} {a b : FrameBuffer × Bool} (h : Toggled P a b)
    (hPQ : ∀ y x, P y x ↔ Q y x) : Toggled Q a b := by
  rwa [show Q = P from funext fun y => funext fun x => propext (hPQ y x).symm]

theorem drawPixel_toggled (y : Fin 32) (x : Fin 64) (bit : Bool) (acc : FrameBuffer × Bool) :
    Toggled (fun y' x' => bit = true ∧ y' = y ∧ x' = x) acc (drawPixel y x bit acc) := by
  cases bit
  · exact (Toggled.refl acc).congr (by simp)
  · refine ⟨?_, ?_, ?_⟩
    · rintro y' x' ⟨-, h⟩; simp [drawPixel, FrameBuffer.pixel_toggle, h]
    · intro y' x' h
      have : ¬(y' = y ∧ x' = x) := fun h' => h ⟨rfl, h'⟩
      simp [drawPixel, FrameBuffer.pixel_toggle, this]
    · simp [drawPixel]

/-! ### One row, one sprite -/

theorem drawColumns_toggled (b : Byte) (x0 : Nat) (y : Fin 32) (n : Nat) (hn : n ≤ 8) (acc : FrameBuffer × Bool) :
    Toggled (fun y' x' => y' = y ∧ ∃ c < n, x'.val = (x0 + c) % 64 ∧ spriteBit b c = true) acc
      (drawColumns b x0 y n acc) := by
  induction n with
  | zero => exact (Toggled.refl acc).congr (by simp)
  | succ n ih =>
    refine ((ih (by omega)).trans (drawPixel_toggled y (Fin.ofNat 64 (x0 + n)) (spriteBit b n) _) ?_).congr ?_
    · rintro y' x' ⟨-, c, hc, hx, -⟩ ⟨-, -, rfl⟩
      simp only [Fin.val_ofNat] at hx
      omega
    · intro y' x'
      constructor
      · rintro (⟨rfl, c, hc, h⟩ | ⟨hb, rfl, rfl⟩)
        · exact ⟨rfl, c, by omega, h⟩
        · exact ⟨rfl, n, by omega, by simp, hb⟩
      · rintro ⟨rfl, c, hc, hx, hb⟩
        rcases Nat.lt_succ_iff_lt_or_eq.mp hc with h | rfl
        · exact .inl ⟨rfl, c, h, hx, hb⟩
        · exact .inr ⟨hb, rfl, Fin.ext (by simpa using hx)⟩

/-- A sprite of `n` rows toggles, each once, the pixels its on bits land on (R130 (b), R132). -/
theorem drawRows_toggled (m : Memory) (base x0 y0 n : Nat) (hn : n ≤ 16) (acc : FrameBuffer × Bool) :
    Toggled (fun y x => ∃ r < n, y.val = (y0 + r) % 32 ∧
      ∃ c < 8, x.val = (x0 + c) % 64 ∧ spriteBit (m.read (base + r)) c = true) acc (drawRows m base x0 y0 n acc) := by
  induction n with
  | zero => exact (Toggled.refl acc).congr (by simp)
  | succ n ih =>
    refine ((ih (by omega)).trans
      (drawColumns_toggled (m.read (base + n)) x0 (Fin.ofNat 32 (y0 + n)) 8 (Nat.le_refl 8) _) ?_).congr ?_
    · rintro y x ⟨r, hr, hy, -⟩ ⟨rfl, -⟩
      simp only [Fin.val_ofNat] at hy
      omega
    · intro y x
      constructor
      · rintro (⟨r, hr, h⟩ | ⟨rfl, h⟩)
        · exact ⟨r, by omega, h⟩
        · exact ⟨n, by omega, by simp, h⟩
      · rintro ⟨r, hr, hy, h⟩
        rcases Nat.lt_succ_iff_lt_or_eq.mp hr with h' | rfl
        · exact .inl ⟨r, h', hy, h⟩
        · exact .inr ⟨Fin.ext (by simpa using hy), h⟩

/-- What DRW leaves in the frame buffer and in its collision flag (R130, R132). -/
theorem State.drawn_toggled (s : State) (x y n : Nibble) :
    Toggled (fun py px => ∃ r c : Nat, r < n.toNat ∧ c < 8 ∧ py.val = ((s.getV y).toNat % 32 + r) % 32 ∧
      px.val = ((s.getV x).toNat % 64 + c) % 64 ∧ (s.mem.read (s.i.toNat + r)).getLsbD (7 - c) = true)
      (s.fb, false) (s.drawn x y n) := by
  refine (drawRows_toggled s.mem s.i.toNat _ _ n.toNat (by have := n.isLt; omega) (s.fb, false)).congr fun py px => ?_
  simp only [fbWidth, fbHeight, spriteBit]
  constructor
  · rintro ⟨r, hr, hy, c, hc, hx, hb⟩; exact ⟨r, c, hr, hc, hy, hx, hb⟩
  · rintro ⟨r, c, hr, hc, hy, hx, hb⟩; exact ⟨r, hr, hy, c, hc, hx, hb⟩

end Sys2Proof.Machine
end

