-- ==== Sys2Proof/Laws/Memory.lean ====
section
/-! SUPPORT. Memory: a read after a write, and the canonical form that every write keeps. -/

namespace Sys2Proof.Machine

theorem Memory.sortedFrom_cons {lo a : Nat} {b : Byte} {m : Memory} :
    Memory.sortedFrom lo ((a, b) :: m) = true ↔
      lo ≤ a ∧ a < memSize ∧ b ≠ Memory.unlisted ∧ Memory.sortedFrom (a + 1) m = true := by
  simp [Memory.sortedFrom, and_assoc]

theorem Memory.sortedFrom_mono {lo lo' : Nat} {m : Memory} (h : Memory.sortedFrom lo m = true) (hle : lo' ≤ lo) :
    Memory.sortedFrom lo' m = true := by
  cases m with
  | nil => rfl
  | cons e m =>
    obtain ⟨h1, h2⟩ := Memory.sortedFrom_cons.mp h
    exact Memory.sortedFrom_cons.mpr ⟨hle.trans h1, h2⟩

/-- Below its first entry a canonical memory reads as unlisted. -/
theorem Memory.read_below {lo c : Nat} {m : Memory} (h : Memory.sortedFrom lo m = true) (hc : c < lo) :
    m.read c = Memory.unlisted := by
  induction m generalizing lo with
  | nil => rfl
  | cons e m ih =>
    obtain ⟨h1, -, -, h4⟩ := Memory.sortedFrom_cons.mp h
    have hne : e.1 ≠ c := by omega
    rw [Memory.read, if_neg hne]
    exact ih h4 (by omega)

/-! ### One byte -/

theorem Memory.read_write_from {lo : Nat} {m : Memory} (h : Memory.sortedFrom lo m = true) (a c : Nat) (b : Byte) :
    (m.write a b).read c = if c = a then b else m.read c := by
  induction m generalizing lo with
  | nil =>
    rw [Memory.write]
    by_cases hb : b = Memory.unlisted <;> by_cases hc : a = c
    · simp [Memory.read, hb]
    · simp [Memory.read, hb]
    · simp [Memory.read, hb, hc]
    · simp [Memory.read, hb, hc, Ne.symm hc]
  | cons e m ih =>
    obtain ⟨a', b'⟩ := e
    obtain ⟨-, -, -, h4⟩ := Memory.sortedFrom_cons.mp h
    have below : ∀ c, c < a' + 1 → Memory.read m c = Memory.unlisted := fun c => Memory.read_below h4
    rw [Memory.write]
    split
    · by_cases hb : b = Memory.unlisted <;> by_cases hc : a = c
      · subst hc; simp [Memory.read, hb, below a (by omega), show a' ≠ a by omega]
      · simp [Memory.read, hb, Ne.symm hc]
      · simp [Memory.read, hb, hc]
      · simp [Memory.read, hb, hc, Ne.symm hc]
    · split
      · rename_i _ heq
        subst heq
        by_cases hb : b = Memory.unlisted <;> by_cases hc : a' = c
        · subst hc; simp [hb, below a' (by omega)]
        · simp [Memory.read, hb, hc, Ne.symm hc]
        · simp [Memory.read, hb, hc]
        · simp [Memory.read, hb, hc, Ne.symm hc]
      · rename_i _ hne
        rw [Memory.read, ih h4]
        by_cases hc : a' = c
        · subst hc; simp [Memory.read, hne]
        · simp [Memory.read, hc]

/-- A read after a write: the byte written at its address, the old byte elsewhere. -/
theorem Memory.read_write {m : Memory} (h : m.wf = true) (a c : Nat) (b : Byte) :
    (m.write a b).read c = if c = a then b else m.read c := Memory.read_write_from h a c b

theorem Memory.sortedFrom_write {lo : Nat} {m : Memory} (h : Memory.sortedFrom lo m = true) {a : Nat} (hlo : lo ≤ a)
    (ha : a < memSize) (b : Byte) : Memory.sortedFrom lo (m.write a b) = true := by
  induction m generalizing lo with
  | nil =>
    rw [Memory.write]
    split
    · rfl
    · exact Memory.sortedFrom_cons.mpr ⟨hlo, ha, ‹_›, rfl⟩
  | cons e m ih =>
    obtain ⟨a', b'⟩ := e
    obtain ⟨h1, h2, h3, h4⟩ := Memory.sortedFrom_cons.mp h
    rw [Memory.write]
    split
    · split
      · exact h
      · exact Memory.sortedFrom_cons.mpr ⟨hlo, ha, ‹_›, Memory.sortedFrom_cons.mpr ⟨by omega, h2, h3, h4⟩⟩
    · split
      · rename_i _ heq
        subst heq
        split
        · exact Memory.sortedFrom_mono h4 (by omega)
        · exact Memory.sortedFrom_cons.mpr ⟨hlo, ha, ‹_›, h4⟩
      · exact Memory.sortedFrom_cons.mpr ⟨h1, h2, h3, ih h4 (by omega)⟩

/-- A write below `MEM_SIZE` keeps the canonical form. -/
theorem Memory.wf_write {m : Memory} (h : m.wf = true) {a : Nat} (ha : a < memSize) (b : Byte) :
    (m.write a b).wf = true := Memory.sortedFrom_write h (Nat.zero_le a) ha b

/-! ### A block of bytes -/

/-- A block of writes below `MEM_SIZE` keeps the canonical form. -/
theorem Memory.wf_writeBytes {bs : List Byte} {m : Memory} (h : m.wf = true) {a : Nat} (ha : a + bs.length ≤ memSize) :
    (m.writeBytes a bs).wf = true := by
  induction bs generalizing m a with
  | nil => exact h
  | cons b bs ih =>
    rw [List.length_cons] at ha
    exact ih (Memory.wf_write h (by omega) b) (by omega)

/-- A read after a block of writes: the block's byte inside it, the old byte elsewhere. -/
theorem Memory.read_writeBytes {bs : List Byte} {m : Memory} (h : m.wf = true) {a : Nat}
    (ha : a + bs.length ≤ memSize) (c : Nat) :
    (m.writeBytes a bs).read c = if h : a ≤ c ∧ c - a < bs.length then bs[c - a]'h.2 else m.read c := by
  induction bs generalizing m a with
  | nil => simp [Memory.writeBytes]
  | cons b bs ih =>
    rw [List.length_cons] at ha
    rw [Memory.writeBytes, ih (Memory.wf_write h (by omega) b) (by omega), Memory.read_write h]
    rcases Nat.lt_trichotomy c a with hlt | rfl | hgt
    · rw [dif_neg (by omega), dif_neg (by omega), if_neg (by omega)]
    · rw [dif_neg (by omega), dif_pos (by simp)]
      simp
    · obtain ⟨d, rfl⟩ : ∃ d, c = a + 1 + d := ⟨c - (a + 1), by omega⟩
      have e1 : a + 1 + d - (a + 1) = d := by omega
      have e2 : a + 1 + d - a = d + 1 := by omega
      by_cases hd : d < bs.length
      · rw [dif_pos ⟨by omega, by omega⟩, dif_pos ⟨by omega, by rw [List.length_cons]; omega⟩]
        simp [e1, e2]
      · rw [dif_neg (by omega), dif_neg (by rw [List.length_cons]; omega), if_neg (by omega)]

theorem Memory.read_writeBytes_inside {bs : List Byte} {m : Memory} (h : m.wf = true) {a : Nat}
    (ha : a + bs.length ≤ memSize) {j : Nat} (hj : j < bs.length) : (m.writeBytes a bs).read (a + j) = bs[j] := by
  rw [Memory.read_writeBytes h ha, dif_pos ⟨by omega, by omega⟩]
  simp

theorem Memory.read_writeBytes_outside {bs : List Byte} {m : Memory} (h : m.wf = true) {a : Nat}
    (ha : a + bs.length ≤ memSize) {c : Nat} (hc : c < a ∨ a + bs.length ≤ c) :
    (m.writeBytes a bs).read c = m.read c := by
  rw [Memory.read_writeBytes h ha, dif_neg (by omega)]

/-! ### Equal memories are equal lists -/

theorem Memory.eq_of_read_from {lo : Nat} {m m' : Memory} (h : Memory.sortedFrom lo m = true)
    (h' : Memory.sortedFrom lo m' = true) (hr : ∀ a, m.read a = m'.read a) : m = m' := by
  induction m generalizing lo m' with
  | nil =>
    cases m' with
    | nil => rfl
    | cons e m' =>
      have := hr e.1
      simp only [Memory.read, if_true] at this
      exact absurd this.symm (Memory.sortedFrom_cons.mp h').2.2.1
  | cons e m ih =>
    obtain ⟨-, h2, h3, h4⟩ := Memory.sortedFrom_cons.mp h
    cases m' with
    | nil =>
      have := hr e.1
      simp only [Memory.read, if_true] at this
      exact absurd this h3
    | cons e' m' =>
      obtain ⟨-, h2', h3', h4'⟩ := Memory.sortedFrom_cons.mp h'
      have key : e = e' := by
        rcases Nat.lt_trichotomy e.1 e'.1 with hlt | heq | hgt
        · have := hr e.1
          rw [Memory.read, if_pos rfl,
            Memory.read_below (Memory.sortedFrom_cons.mpr ⟨Nat.le_refl e'.1, h2', h3', h4'⟩) hlt] at this
          exact absurd this h3
        · have := hr e.1
          rw [Memory.read, if_pos rfl, Memory.read, if_pos heq.symm] at this
          exact Prod.ext heq this
        · have := hr e'.1
          rw [Memory.read_below (Memory.sortedFrom_cons.mpr ⟨Nat.le_refl e.1, h2, h3, h4⟩) hgt, Memory.read,
            if_pos rfl] at this
          exact absurd this.symm h3'
      subst key
      rw [ih h4 h4' fun a => ?_]
      by_cases ha : a < e.1 + 1
      · rw [Memory.read_below h4 ha, Memory.read_below h4' ha]
      · have := hr a
        rwa [Memory.read, if_neg (by omega), Memory.read, if_neg (by omega)] at this

/-- Two memories in canonical form that read alike at every address are the same data. -/
theorem Memory.eq_of_read {m m' : Memory} (h : m.wf = true) (h' : m'.wf = true) (hr : ∀ a, m.read a = m'.read a) :
    m = m' := Memory.eq_of_read_from h h' hr

/-! ### Reset -/

theorem Memory.wf_reset : State.reset.mem.wf = true := rfl

end Sys2Proof.Machine
end

