-- ==== Sys2Proof/Laws/PerInstr.lean ====
section
/-! SUPPORT. Laws that hold of every instruction as syntax, one lemma per constructor: each word matches its own row of
the opcode table (R64). -/

namespace Sys2Proof.Laws.OpcodeRow

/-- The word of `i`, under the mask of its row, is the match of its row (R64). -/
def Statement (i : Instr) : Prop := encode i &&& (opcodeRow i).1 = (opcodeRow i).2

theorem of_maskOp {i : Instr} (h : (opcodeRow i).1 = 0xF000#16)
    (hm : fieldOp (encode i) ++ 0x000#12 = (opcodeRow i).2) : Statement i := by
  rw [Statement, h, and_maskOp, hm]

theorem of_maskOpN {i : Instr} (h : (opcodeRow i).1 = 0xF00F#16)
    (hm : fieldOp (encode i) ++ 0x0#4 ++ 0x0#4 ++ fieldN (encode i) = (opcodeRow i).2) : Statement i := by
  rw [Statement, h, and_maskOpN, hm]

theorem of_maskOpNN {i : Instr} (h : (opcodeRow i).1 = 0xF0FF#16)
    (hm : fieldOp (encode i) ++ 0x0#4 ++ fieldNN (encode i) = (opcodeRow i).2) : Statement i := by
  rw [Statement, h, and_maskOpNN, hm]

theorem sys (nnn : Addr12) : Statement (.sys nnn) := of_maskOp rfl (by simp [encode, opcodeRow])
theorem cls : Statement .cls := rfl
theorem ret : Statement .ret := rfl
theorem jp (nnn : Addr12) : Statement (.jp nnn) := of_maskOp rfl (by simp [encode, opcodeRow])
theorem call (nnn : Addr12) : Statement (.call nnn) := of_maskOp rfl (by simp [encode, opcodeRow])
theorem seImm (x : Nibble) (nn : Byte) : Statement (.seImm x nn) := of_maskOp rfl (by simp [encode, opcodeRow])
theorem sneImm (x : Nibble) (nn : Byte) : Statement (.sneImm x nn) := of_maskOp rfl (by simp [encode, opcodeRow])
theorem seReg (x y n : Nibble) : Statement (.seReg x y n) := of_maskOp rfl (by simp [encode, opcodeRow])
theorem ldImm (x : Nibble) (nn : Byte) : Statement (.ldImm x nn) := of_maskOp rfl (by simp [encode, opcodeRow])
theorem addImm (x : Nibble) (nn : Byte) : Statement (.addImm x nn) := of_maskOp rfl (by simp [encode, opcodeRow])
theorem ldReg (x y : Nibble) : Statement (.ldReg x y) := of_maskOpN rfl (by simp [encode, opcodeRow])
theorem or (x y : Nibble) : Statement (.or x y) := of_maskOpN rfl (by simp [encode, opcodeRow])
theorem and (x y : Nibble) : Statement (.and x y) := of_maskOpN rfl (by simp [encode, opcodeRow])
theorem xor (x y : Nibble) : Statement (.xor x y) := of_maskOpN rfl (by simp [encode, opcodeRow])
theorem addReg (x y : Nibble) : Statement (.addReg x y) := of_maskOpN rfl (by simp [encode, opcodeRow])
theorem sub (x y : Nibble) : Statement (.sub x y) := of_maskOpN rfl (by simp [encode, opcodeRow])
theorem shr (x y : Nibble) : Statement (.shr x y) := of_maskOpN rfl (by simp [encode, opcodeRow])
theorem subn (x y : Nibble) : Statement (.subn x y) := of_maskOpN rfl (by simp [encode, opcodeRow])
theorem shl (x y : Nibble) : Statement (.shl x y) := of_maskOpN rfl (by simp [encode, opcodeRow])
theorem sneReg (x y n : Nibble) : Statement (.sneReg x y n) := of_maskOp rfl (by simp [encode, opcodeRow])
theorem ldI (nnn : Addr12) : Statement (.ldI nnn) := of_maskOp rfl (by simp [encode, opcodeRow])
theorem jpV0 (nnn : Addr12) : Statement (.jpV0 nnn) := of_maskOp rfl (by simp [encode, opcodeRow])
theorem rnd (x : Nibble) (nn : Byte) : Statement (.rnd x nn) := of_maskOp rfl (by simp [encode, opcodeRow])
theorem drw (x y n : Nibble) : Statement (.drw x y n) := of_maskOp rfl (by simp [encode, opcodeRow])
theorem skp (x : Nibble) : Statement (.skp x) := of_maskOpNN rfl (by simp [encode, opcodeRow])
theorem sknp (x : Nibble) : Statement (.sknp x) := of_maskOpNN rfl (by simp [encode, opcodeRow])
theorem ldVxDt (x : Nibble) : Statement (.ldVxDt x) := of_maskOpNN rfl (by simp [encode, opcodeRow])
theorem ldVxK (x : Nibble) : Statement (.ldVxK x) := of_maskOpNN rfl (by simp [encode, opcodeRow])
theorem ldDtVx (x : Nibble) : Statement (.ldDtVx x) := of_maskOpNN rfl (by simp [encode, opcodeRow])
theorem ldStVx (x : Nibble) : Statement (.ldStVx x) := of_maskOpNN rfl (by simp [encode, opcodeRow])
theorem addI (x : Nibble) : Statement (.addI x) := of_maskOpNN rfl (by simp [encode, opcodeRow])
theorem ldF (x : Nibble) : Statement (.ldF x) := of_maskOpNN rfl (by simp [encode, opcodeRow])
theorem ldB (x : Nibble) : Statement (.ldB x) := of_maskOpNN rfl (by simp [encode, opcodeRow])
theorem ldStore (x : Nibble) : Statement (.ldStore x) := of_maskOpNN rfl (by simp [encode, opcodeRow])
theorem ldLoad (x : Nibble) : Statement (.ldLoad x) := of_maskOpNN rfl (by simp [encode, opcodeRow])

end Sys2Proof.Laws.OpcodeRow
end

