-- ==== Sys2Proof/Tests/Slice0.lean ====
section
/-! SUPPORT. Tests: ill-formed terms are refused, words written out from the encoding of each instruction decode to it,
one step of each instruction against the spec's own vectors (95_test_vectors.md, named in each comment), and for every
statement with hypotheses a state that meets them. -/

namespace Sys2Proof.Tests

open Sys2Proof.Machine

/-! ### WellFormed (R65): the two words that are no SYS -/

theorem test_wf_refuses_sys_0E0 : (Instr.sys 0x0E0#12).wf = false := by decide
theorem test_wf_refuses_sys_0EE : (Instr.sys 0x0EE#12).wf = false := by decide
theorem test_wf_admits_sys_0E1 : (Instr.sys 0x0E1#12).wf = true := by decide

/-! ### Decoding: one word of each of the 35 rows of R64, written out by hand -/

theorem test_decode_control :
    decodeWord 0x0123 = .ok (.sys 0x123) ∧ decodeWord 0x00EE = .ok .ret ∧ decodeWord 0x1234 = .ok (.jp 0x234) ∧
    decodeWord 0x2300 = .ok (.call 0x300) ∧ decodeWord 0x3A05 = .ok (.seImm 0xA 0x05) ∧
    decodeWord 0x4A05 = .ok (.sneImm 0xA 0x05) ∧ decodeWord 0x5127 = .ok (.seReg 1 2 7) ∧
    decodeWord 0x912F = .ok (.sneReg 1 2 0xF) ∧ decodeWord 0xB300 = .ok (.jpV0 0x300) := by decide

theorem test_decode_alu :
    decodeWord 0x6A2C = .ok (.ldImm 0xA 0x2C) ∧ decodeWord 0x7A01 = .ok (.addImm 0xA 0x01) ∧
    decodeWord 0x8120 = .ok (.ldReg 1 2) ∧ decodeWord 0x8121 = .ok (.or 1 2) ∧ decodeWord 0x8122 = .ok (.and 1 2) ∧
    decodeWord 0x8123 = .ok (.xor 1 2) ∧ decodeWord 0x8124 = .ok (.addReg 1 2) ∧ decodeWord 0x8125 = .ok (.sub 1 2) ∧
    decodeWord 0x8126 = .ok (.shr 1 2) ∧ decodeWord 0x8127 = .ok (.subn 1 2) ∧ decodeWord 0x812E = .ok (.shl 1 2) ∧
    decodeWord 0xC10F = .ok (.rnd 1 0x0F) := by decide

theorem test_decode_index :
    decodeWord 0xA2F0 = .ok (.ldI 0x2F0) ∧ decodeWord 0xF11E = .ok (.addI 1) ∧ decodeWord 0xF129 = .ok (.ldF 1) ∧
    decodeWord 0xF133 = .ok (.ldB 1) ∧ decodeWord 0xF255 = .ok (.ldStore 2) ∧ decodeWord 0xF165 = .ok (.ldLoad 1) := by
  decide

theorem test_decode_graphics_keys_timers :
    decodeWord 0x00E0 = .ok .cls ∧ decodeWord 0xD123 = .ok (.drw 1 2 3) ∧ decodeWord 0xE19E = .ok (.skp 1) ∧
    decodeWord 0xE1A1 = .ok (.sknp 1) ∧ decodeWord 0xF30A = .ok (.ldVxK 3) ∧ decodeWord 0xF207 = .ok (.ldVxDt 2) ∧
    decodeWord 0xF215 = .ok (.ldDtVx 2) ∧ decodeWord 0xF218 = .ok (.ldStVx 2) := by decide

/-- E5, E6, E8, E9, E10. -/
theorem test_decode_unknown :
    decodeWord 0x800F = .error (.unknownInstruction 0x800F) ∧ decodeWord 0x8128 = .error (.unknownInstruction 0x8128) ∧
    decodeWord 0xE19F = .error (.unknownInstruction 0xE19F) ∧ decodeWord 0xF000 = .error (.unknownInstruction 0xF000) ∧
    decodeWord 0xFF75 = .error (.unknownInstruction 0xFF75) := by decide

theorem test_table_word_high_byte_first : decodeTableWord 16 0x6A2C = some (.ldImm 0xA 0x2C) := by decide
theorem test_encode_bytes_big_endian : encodeBytes (.call 0x300) = [0x23, 0x00] := by decide

/-! ### One step -/

/-- The state after one cycle that runs the word `w` with the inputs `k` and `r`. -/
def cycleOf (w k : Word) (r : Byte) (s : State) : Option State :=
  match step { s.withFetchWord 16 w.toNat with pending := [.cycle k r] } with
  | .next t => some t
  | .fault _ => none
  | .refused _ => none

/-- The same with no key down and a zero random byte. -/
def runWord (w : Word) (s : State) : Option State := cycleOf w 0 0 s

/-- The reset state with `V1` = `a` and `V2` = `b`. -/
def regs12 (a b : Byte) : State := (State.reset.setV 1 a).setV 2 b

/-- The reset state with `n` stack entries of 0x0ABC. -/
def withStack (n : Fin 25) : State := { State.reset with sp := n, stack := Vector.replicate 24 0x0ABC }

/-- The reset state with `I` = `a` and the bytes `bs` at `a`. -/
def withBytes (a : Word) (bs : List Byte) : State :=
  { State.reset with i := a, mem := Memory.writeBytes [] a.toNat bs }

/-- The kind and the information of a fault. -/
def faultOf (o : Option State) : Option (FaultKind × Word × Word) := o.map fun t => (t.fault, t.faultInfo, t.pc)

/-- `V1`, `VF`, `PC`. -/
def v1vfpc (o : Option State) : Option (Byte × Byte × Word) := o.map fun t => (t.getV 1, t.getV 0xF, t.pc)

/-- F22. -/
theorem test_sys_raises : faultOf (runWord 0x0123 State.reset) = some (.unknownInstruction, 0x0123, 0x200) := by decide
/-- F22, with `SYS_IS_NOP`. -/
theorem test_sys_nop :
    faultOf (runWord 0x0123 { State.reset with params := { Params.default with sysIsNop := true } }) =
      some (.running, 0, 0x202) := by decide
/-- F6. -/
theorem test_ret : (runWord 0x00EE (withStack 1)).map (fun t => (t.pc, t.sp)) = some (0x0ABC, 0) := by decide
/-- F7. -/
theorem test_ret_underflow :
    (cycleOf 0x00EE 0x0004 0 State.reset).map (fun t => (t.fault, t.faultInfo, t.pc, t.key, t.keyPrev)) =
      some (.stackUnderflow, 0x0200, 0x200, 0x0004, 0x0000) := by decide
/-- F3. -/
theorem test_jp : (runWord 0x1FFF State.reset).map (fun t => (t.pc, t.fault)) = some (0xFFF, .running) := by decide
/-- F4. -/
theorem test_call :
    (runWord 0x2300 State.reset).map (fun t => (t.pc, t.sp, t.stack[0])) = some (0x300, 1, 0x0202) := by decide
/-- F5. -/
theorem test_call_overflow :
    (runWord 0x2300 (withStack 24)).map (fun t => (t.fault, t.faultInfo, t.pc, t.sp, t.stack[23])) =
      some (.stackOverflow, 0x0200, 0x200, 24, 0x0ABC) := by decide
/-- F9, F10. -/
theorem test_se_imm :
    (runWord 0x3A05 (State.reset.setV 0xA 5)).map (·.pc) = some 0x204 ∧
    (runWord 0x3A05 (State.reset.setV 0xA 6)).map (·.pc) = some 0x202 := by decide
/-- F11, F12. -/
theorem test_sne_imm :
    (runWord 0x4A05 (State.reset.setV 0xA 5)).map (·.pc) = some 0x202 ∧
    (runWord 0x4A05 (State.reset.setV 0xA 6)).map (·.pc) = some 0x204 := by decide
/-- F14, F15. -/
theorem test_se_reg :
    (runWord 0x5127 (regs12 7 7)).map (·.pc) = some 0x204 ∧ (runWord 0x5120 (regs12 7 8)).map (·.pc) = some 0x202 := by
  decide
/-- F17, F18. -/
theorem test_sne_reg :
    (runWord 0x9120 (regs12 7 8)).map (·.pc) = some 0x204 ∧ (runWord 0x912F (regs12 7 7)).map (·.pc) = some 0x202 := by
  decide
/-- F20. -/
theorem test_jp_v0_not_masked : (runWord 0xBFFF (State.reset.setV 0 0xFF)).map (·.pc) = some 0x10FE := by decide

/-- A16. -/
theorem test_ld_imm_vf : v1vfpc (runWord 0x6F07 State.reset) = some (0, 7, 0x202) := by decide
/-- A17. -/
theorem test_add_imm_no_carry :
    (runWord 0x7A01 (State.reset.setV 0xA 0xFF)).map (fun t => (t.getV 0xA, t.getV 0xF)) = some (0, 0) := by decide
/-- A19. -/
theorem test_ld_reg : (runWord 0x8120 (regs12 0 9)).map (fun t => (t.getV 1, t.getV 2)) = some (9, 9) := by decide
/-- A20. -/
theorem test_or : v1vfpc (runWord 0x8121 ((regs12 0xF0 0x0F).setV 0xF 1)) = some (0xFF, 1, 0x202) := by decide
/-- A20, with `LOGIC_RESETS_VF`. -/
theorem test_or_resets_vf :
    v1vfpc (runWord 0x8121
      { (regs12 0xF0 0x0F).setV 0xF 1 with params := { Params.default with logicResetsVf := true } }) =
      some (0xFF, 0, 0x202) := by decide
/-- A21. -/
theorem test_and : v1vfpc (runWord 0x8122 (regs12 0xF0 0x3C)) = some (0x30, 0, 0x202) := by decide
/-- A22. -/
theorem test_xor : v1vfpc (runWord 0x8123 (regs12 0xFF 0x0F)) = some (0xF0, 0, 0x202) := by decide
/-- S2. -/
theorem test_add_carry : v1vfpc (runWord 0x8124 (regs12 0xFF 0x01)) = some (0x00, 1, 0x202) := by decide
/-- A24: the carry overwrites the sum. -/
theorem test_add_vf :
    v1vfpc (runWord 0x8F14 ((regs12 0x02 0).setV 0xF 0xFF)) = some (0x02, 0x01, 0x202) := by decide
/-- S3. -/
theorem test_sub_borrow : v1vfpc (runWord 0x8125 ((regs12 0x05 0x0A).setV 0xF 1)) = some (0xFB, 0, 0x202) := by decide
/-- A27: equal operands. -/
theorem test_sub_equal : v1vfpc (runWord 0x8115 (regs12 0x33 0)) = some (0x00, 1, 0x202) := by decide
/-- A13, A29. -/
theorem test_shr :
    v1vfpc (runWord 0x8106 (regs12 0x81 0)) = some (0x40, 1, 0x202) ∧
    v1vfpc (runWord 0x8126 { regs12 5 8 with params := { Params.default with shiftUsesVy := true } }) =
      some (0x04, 0, 0x202) := by decide
/-- A2. -/
theorem test_subn : v1vfpc (runWord 0x8127 (regs12 0x05 0x0A)) = some (0x05, 1, 0x202) := by decide
/-- A12, A10. -/
theorem test_shl :
    v1vfpc (runWord 0x810E (regs12 0x80 0)) = some (0x00, 1, 0x202) ∧
    v1vfpc (runWord 0x810E (regs12 0x01 0)) = some (0x02, 0, 0x202) := by decide
/-- A30. -/
theorem test_rnd : v1vfpc (cycleOf 0xC10F 0 0xA7 State.reset) = some (0x07, 0, 0x202) := by decide

/-- M1. -/
theorem test_ld_i : (runWord 0xA2F0 State.reset).map (fun t => (t.i, t.pc)) = some (0x02F0, 0x202) := by decide
/-- M3, M4. -/
theorem test_add_i :
    (runWord 0xF11E { (regs12 1 0).setV 0xF 9 with i := 0x0FFF }).map (fun t => (t.i, t.getV 0xF)) = some (0x1000, 9) ∧
    (runWord 0xF11E { regs12 2 0 with i := 0xFFFF }).map (·.i) = some 0x0001 := by decide
/-- M6. -/
theorem test_ld_f : (runWord 0xF129 (regs12 0x1A 0)).map (·.i) = some 0x0032 := by decide
/-- M8. -/
theorem test_ld_b :
    (runWord 0xF033 { State.reset.setV 0 0xFF with i := 0x0FFD }).map
      (fun t => (t.mem.read 0xFFD, t.mem.read 0xFFE, t.mem.read 0xFFF, t.pc)) = some (2, 5, 5, 0x202) := by decide
/-- M9. -/
theorem test_ld_b_out_of_range :
    faultOf (runWord 0xF033 { State.reset.setV 0 0x7B with i := 0x0FFE }) =
      some (.addressOutOfRange, 0x1000, 0x200) := by decide
/-- M11. -/
theorem test_ld_store :
    (runWord 0xF255 { ((regs12 2 3).setV 0 1).setV 3 4 with i := 0x400 }).map
      (fun t => ([0x400, 0x401, 0x402, 0x403].map t.mem.read, t.i)) = some ([1, 2, 3, 0], 0x0400) := by decide
/-- M11, with `LDST_INCREMENTS_I`. -/
theorem test_ld_store_increments :
    (runWord 0xF255 { State.reset with i := 0x400, params := { Params.default with ldstIncrementsI := true } }).map
      (·.i) = some 0x0403 := by decide
/-- M14. -/
theorem test_ld_load :
    (runWord 0xF165 ((withBytes 0x400 [0xAA, 0xBB]).setV 2 0x77)).map
      (fun t => (t.getV 0, t.getV 1, t.getV 2, t.i)) = some (0xAA, 0xBB, 0x77, 0x0400) := by decide
/-- M15. -/
theorem test_ld_load_out_of_range :
    faultOf (runWord 0xF165 { State.reset with i := 0x2000 }) = some (.addressOutOfRange, 0x2000, 0x200) := by decide

/-- G1: a sprite wraps in both directions. -/
theorem test_drw_wraps :
    (runWord 0xD123 (((withBytes 0x300 [0xFF, 0x81, 0xFF]).setV 1 60).setV 2 30)).map
      (fun t => (t.fb[30], t.fb[31], t.fb[0], t.getV 0xF, t.dirty)) =
      some (0xF00000000000000F, 0x1000000000000008, 0xF00000000000000F, 0, true) := by decide
/-- G7, second cycle: drawing again erases and reports the collision. -/
theorem test_drw_collision :
    ((runWord 0xD121 (((withBytes 0x300 [0xF0]).setV 1 62).setV 2 31)).bind (runWord 0xD121)).map
      (fun t => (t.fb[31], t.getV 0xF)) = some (0, 1) := by decide
/-- G10. -/
theorem test_cls :
    (runWord 0x00E0 { State.reset.setV 0xF 1 with fb := Vector.replicate 32 0xFFFF }).map
      (fun t => (t.fb, t.dirty, t.getV 0xF)) = some (Vector.replicate 32 0, true, 1) := by decide

/-- K3, K2. -/
theorem test_skp :
    (cycleOf 0xE19E 0x0020 0 (regs12 0x15 0)).map (·.pc) = some 0x204 ∧
    (cycleOf 0xE19E 0x0000 0 (regs12 0x05 0)).map (·.pc) = some 0x202 := by decide
/-- K4, K5. -/
theorem test_sknp :
    (cycleOf 0xE1A1 0x0020 0 (regs12 0x05 0)).map (·.pc) = some 0x202 ∧
    (cycleOf 0xE1A1 0xFFDF 0 (regs12 0x05 0)).map (·.pc) = some 0x204 := by decide
/-- K6. -/
theorem test_key_wait_completes :
    (cycleOf 0xF30A 0x0108 0 State.reset).map (fun t => (t.getV 3, t.pc, t.keyPrev)) =
      some (3, 0x202, 0x0108) := by decide
/-- K7. -/
theorem test_key_wait_waits :
    (cycleOf 0xF30A 0x0108 0 { State.reset with keyPrev := 0x0108 }).map (fun t => (t.getV 3, t.pc, t.keyPrev)) =
      some (0, 0x200, 0x0108) := by decide

/-- T1. -/
theorem test_ld_vx_dt :
    (runWord 0xF207 { State.reset with dt := 0x2A }).map (fun t => (t.getV 2, t.dt, t.pc)) = some (0x2A, 0x2A, 0x202) := by
  decide
/-- T2. -/
theorem test_ld_dt_vx :
    (runWord 0xF215 { regs12 0 0x3C with presc := 7 }).map (fun t => (t.dt, t.presc)) = some (0x3C, 7) := by decide
/-- T3. -/
theorem test_ld_st_vx :
    (runWord 0xF218 (regs12 0 5)).map (fun t => (t.st, t.soundOn, t.stOut)) = some (5, true, 5) := by decide

/-! ### Events -/

/-- T6. -/
theorem test_advance_time :
    ((State.advanceTime 4 40 { State.reset with dt := 10, presc := 3 }).dt,
      (State.advanceTime 4 40 { State.reset with dt := 10, presc := 3 }).presc) = (0, 3) := by decide +kernel
/-- T7. -/
theorem test_advance_time_remainder :
    ((State.advanceTime 4 39 { State.reset with dt := 10 }).dt,
      (State.advanceTime 4 39 { State.reset with dt := 10 }).presc) = (1, 3) := by decide +kernel
/-- T9: the timers of a halted core are frozen. -/
theorem test_tick_halted :
    ({ State.reset with dt := 5, fault := .unknownInstruction }.tick).dt = 5 ∧
    ((State.advanceTime 1 3 { State.reset with dt := 5, fault := .unknownInstruction }).dt) = 5 := by decide
/-- X6. -/
theorem test_dirty_clear_halted :
    ({ State.reset with dirty := true, fault := .stackOverflow }.clearDirty).dirty = true := by decide
/-- X4: the fetch fault comes before decode. -/
theorem test_fetch_fault :
    (match step { State.reset with pc := 0xFFF, mem := [(0xFFF, 0x80)], pending := [.cycle 0 0] } with
      | .next t => some (t.fault, t.faultInfo, t.pc)
      | .fault _ => none
      | .refused _ => none) = some (.addressOutOfRange, 0x1000, 0xFFF) := by decide
/-- X5. -/
theorem test_halted_cycle :
    (match step { State.reset with fault := .stackOverflow, pending := [.cycle 0xFFFF 0] } with
      | .next t => some (t.key, t.pc)
      | .fault _ => none
      | .refused _ => none) = some (0, 0x200) := by decide

/-! ### Witnesses: for each statement that has hypotheses, states and operands that meet them, clause by clause -/

theorem witness_DecodeOfEncodeIsIdentity : (Instr.sys 0xFFF).wf = true ∧ (Instr.drw 0xF 0 0xF).wf = true := by decide
theorem witness_EncodeOfDecodeIsTheWord : decodeWord 0xFF65 = .ok (.ldLoad 0xF) := by decide
theorem witness_DecodeSelectsTheMatchingRow :
    decodeWord 0x8FF4 = .ok (.addReg 0xF 0xF) ∧
    0x8FF4#16 &&& (opcodeRow (.addReg 0 0)).1 = (opcodeRow (.addReg 0 0)).2 ∧
    0x00E0#16 &&& (opcodeRow (.sys 0)).1 = (opcodeRow (.sys 0)).2 ∧
    0x00EE#16 &&& (opcodeRow (.sys 0)).1 = (opcodeRow (.sys 0)).2 := by decide
theorem witness_UnknownWordsAreThoseListed :
    (fieldOp 0x800F = 0x8 ∧ fieldN 0x800F = 0xF) ∧ (fieldOp 0xE09F = 0xE ∧ fieldNN 0xE09F = 0x9F) ∧
    (fieldOp 0xFFFF = 0xF ∧ fieldNN 0xFFFF = 0xFF) ∧ decodeWord 0x0000 = .ok (.sys 0) := by decide
theorem witness_EveryPatternDecodesToItsRow : 0x0E1#12 ≠ 0x0E0#12 ∧ 0x0E1#12 ≠ 0x0EE#12 := by decide
theorem witness_DecodeTakesTwoBytesHighFirst :
    decodeWord ((0x12 : Byte) ++ (0x34 : Byte)) = .ok (.jp 0x234) ∧ (Instr.jp 0x234).wf = true := by decide
theorem witness_NextEventIsTheOldestListed :
    { State.reset with pending := [.reset, .dirtyClear] }.pending = .reset :: [.dirtyClear] ∧
    State.reset.pending = [] := by decide

/-- A running state with `PC` = `p`, the bytes `bs` there, and a cycle to come. -/
def atPc (p : Word) (bs : List Byte) : State :=
  { State.reset with pc := p, mem := Memory.writeBytes [] p.toNat bs, pending := [.cycle 3 5] }

theorem witness_StepRunsTheDecodedInstruction :
    (atPc 0xFFE [0x12, 0x34]).fault = .running ∧ (atPc 0xFFE [0x12, 0x34]).nextEvent = .cycle 3 5 ∧
    (atPc 0xFFE [0x12, 0x34]).pc.toNat + 1 ≤ 0xFFF ∧
    decode [(atPc 0xFFE [0x12, 0x34]).mem.read 0xFFE, (atPc 0xFFE [0x12, 0x34]).mem.read (0xFFE + 1)] =
      .ok (.jp 0x234, []) ∧
    ∃ t, exec (.jp 0x234) ((atPc 0xFFE [0x12, 0x34]).started 3 5) = .next t :=
  ⟨rfl, rfl, by decide, by decide, _, rfl⟩
theorem witness_FetchOutOfRangeFaults :
    ((atPc 0xFFF []).fault = .running ∧ (atPc 0xFFF []).nextEvent = .cycle 3 5 ∧ (atPc 0xFFF []).pc.toNat = 0xFFF) ∧
    ((atPc 0x1000 []).fault = .running ∧ (atPc 0x1000 []).nextEvent = .cycle 3 5 ∧
      (atPc 0x1000 []).pc.toNat > 0xFFF) := by decide
theorem witness_UnknownWordFaults :
    (atPc 0xFFE [0x81, 0x28]).fault = .running ∧ (atPc 0xFFE [0x81, 0x28]).nextEvent = .cycle 3 5 ∧
    (atPc 0xFFE [0x81, 0x28]).pc.toNat + 1 ≤ 0xFFF ∧
    0x8128#16 = (atPc 0xFFE [0x81, 0x28]).mem.read 0xFFE ++ (atPc 0xFFE [0x81, 0x28]).mem.read (0xFFE + 1) ∧
    decodeWord 0x8128 = .error (.unknownInstruction 0x8128) := by decide

/-- A halted state with a cycle and then a reset to come. -/
def halted : State := { State.reset with fault := .stackOverflow, pending := [.cycle 1 1, .reset] }

theorem witness_FaultStaysUntilReset : halted.fault ≠ .running ∧ Event.reset ∉ halted.pending.take 1 := by decide
theorem witness_ResetEventResetsTheCore : { halted with pending := [.reset] }.pending = [.reset] := by decide

/-- Right after reset, a load of `n` zero bytes at 0xF00 to come (X8, X9). -/
def loading (n : Nat) (loadOpen : Bool) : State :=
  { State.reset with loadOpen := loadOpen, pending := [.load 0xF00 (List.replicate n 0)] }

theorem witness_LoadWritesAllOrNothing (n : Nat) (b : Bool) :
    (loading n b).mem.wf = true ∧ (loading n b).fault = .running ∧
    (loading n b).pending = [.load 0xF00 (List.replicate n 0)] ∧ (loading n b).loadOpen = b ∧
    0xF00 + (List.replicate 256 (0 : Byte)).length ≤ 0x1000 ∧
    0x1000 < 0xF00 + (List.replicate 257 (0 : Byte)).length :=
  ⟨rfl, rfl, rfl, rfl, by rw [List.length_replicate], by rw [List.length_replicate]; omega⟩

/-- A running state with a pulse to come and the prescaler at `n`. -/
def pulsing (n : Nat) : State := { State.reset with presc := n, pending := [.timebasePulse] }

theorem witness_PulseDrivesThePrescaler :
    (∀ n, (pulsing n).fault = .running ∧ (pulsing n).pending = [.timebasePulse]) ∧
    (pulsing (Config.prescaleDiv - 1)).presc = Config.prescaleDiv - 1 ∧
    (pulsing Config.prescaleDiv).presc ≠ Config.prescaleDiv - 1 :=
  ⟨fun _ => ⟨rfl, rfl⟩, rfl, Nat.succ_ne_self Config.prescaleDivPred⟩
theorem witness_TickCountsBothTimersDown : (pulsing 0).fault = .running ∧ halted.fault ≠ .running := by decide
theorem witness_AdvanceTimeCarriesTheRemainder :
    ((pulsing 3).fault = .running ∧ (pulsing 3).presc < 4) ∧ ((pulsing 0).fault = .running ∧ (pulsing 0).presc < 1) ∧
    halted.fault ≠ .running ∧ (pulsing 0).pending = List.replicate 1 .timebasePulse ++ [] ∧
    halted.pending = List.replicate 0 .timebasePulse ++ [.cycle 1 1, .reset] := by decide
theorem witness_TimerExpiresWithinItsWindow :
    (pulsing 3).fault = .running ∧ { pulsing 3 with dt := 1, st := 255 }.presc < 4 ∧
    { pulsing 3 with dt := 1, st := 255 }.dt ≠ 0 ∧ { pulsing 3 with dt := 1, st := 255 }.st ≠ 0 := by decide
theorem witness_DirtyClearClearsOnlyDirty :
    { State.reset with pending := [.dirtyClear] }.fault = .running ∧
    { State.reset with pending := [.dirtyClear] }.pending = [.dirtyClear] := by decide
theorem witness_PlacedWordIsFetchedNext : halted.mem.wf = true ∧ (atPc 0xFFF [1]).mem.wf = true := by decide

theorem witness_SysRaisesOrAdvances :
    State.reset.params.sysIsNop = false ∧
    { State.reset with params := { Params.default with sysIsNop := true } }.params.sysIsNop = true := by decide
theorem witness_CallPushesTheReturnAddress : (withStack 23).sp.val < 24 ∧ (withStack 24).sp.val = 24 := by decide
theorem witness_RetPopsTheReturnAddress :
    (withStack 1).sp.val = 0 + 1 ∧ (withStack 24).sp.val = 23 + 1 ∧ (withStack 0).sp.val = 0 := by decide
theorem witness_ReturnUndoesCall : (withStack 23).sp.val < 24 ∧ (withStack 0).sp.val < 24 := by decide
theorem witness_LogicCombinesBits :
    ((Instr.or 0xF 0 = .or 0xF 0 ∧ Bool.or = Bool.or) ∧ (Instr.and 0xF 0 = .and 0xF 0 ∧ Bool.and = Bool.and) ∧
      (Instr.xor 0 0 = .xor 0 0 ∧ Bool.xor = Bool.xor)) ∧
    State.reset.params.logicResetsVf = false ∧
    { State.reset with params := { Params.default with logicResetsVf := true } }.params.logicResetsVf = true ∧
    0xE#4 ≠ 0xF#4 := by decide
theorem witness_AddSetsCarry : 0xE#4 ≠ 0xF#4 ∧ 0x0#4 ≠ 0xE#4 ∧ 0x0#4 ≠ 0xF#4 := by decide
theorem witness_SubtractionsSetNotBorrow :
    (Instr.sub 0xF 1 = .sub 0xF 1 ∧ (regs12 5 9).getV 0xF = (regs12 5 9).getV 0xF ∧ 5 = (regs12 5 9).getV 1) ∧
    (Instr.subn 1 2 = .subn 1 2 ∧ 9 = (regs12 5 9).getV 2 ∧ 5 = (regs12 5 9).getV 1) ∧ 0x1#4 ≠ 0xF#4 := by decide
theorem witness_ShiftsMoveTheBitOut :
    (State.reset.params.shiftUsesVy = false ∧ (5 : Byte) = if State.reset.params.shiftUsesVy = true
      then (regs12 5 8).getV 2 else (regs12 5 8).getV 1) ∧
    (8 : Byte) = (if { Params.default with shiftUsesVy := true }.shiftUsesVy = true
      then (regs12 5 8).getV 2 else (regs12 5 8).getV 1) ∧ 0x1#4 ≠ 0xF#4 := by decide
theorem witness_AddImmediateWrapsWithoutCarry : 0x0#4 ≠ 0xF#4 := by decide
theorem witness_RndMasksTheRandomByte : 0x0#4 ≠ 0x1#4 ∧ 7 < 8 := by decide

/-- The reset state with `I` = `a`. -/
def withI (a : Word) : State := { State.reset with i := a }

theorem witness_BcdStoresThreeDigits :
    (withI 0xFFD).mem.wf = true ∧ (withI 0xFFD).i.toNat + 2 ≤ 0xFFF ∧
    (withI 0xFFE).mem.wf = true ∧ (withI 0xFFE).i.toNat + 2 > 0xFFF := by decide
theorem witness_StoreRangeCopiesRegisters :
    (withI 0xFF0).mem.wf = true ∧ (withI 0xFF0).i.toNat + (0xF#4).toNat ≤ 0xFFF ∧
    (withI 0xFF1).mem.wf = true ∧ (withI 0xFF1).i.toNat + (0xF#4).toNat > 0xFFF := by decide
theorem witness_LoadRangeCopiesMemory :
    (withI 0xFFF).i.toNat + (0x0#4).toNat ≤ 0xFFF ∧ (withI 0x1000).i.toNat + (0x0#4).toNat > 0xFFF ∧
    (0xF#4).toNat ≤ (0xF#4).toNat := by decide
theorem witness_LoadRangeUndoesStoreRange :
    (withI 0x300).mem.wf = true ∧ (withI 0x300).i.toNat + (0x1#4).toNat ≤ 0xFFF ∧
    ∃ t u, exec (.ldStore 1) (withI 0x300) = .next t ∧
      exec (.ldLoad 1) { t with v := Vector.replicate 16 7, i := (withI 0x300).i } = .next u ∧
      (0x1#4).toNat ≤ (0x1#4).toNat :=
  ⟨rfl, by decide, _, _, rfl, rfl, by decide⟩
/-- FX55 stores one byte, the last one there is. -/
theorem witness_StoredCodeIsFetched_store :
    (withI 0xFFF).mem.wf = true ∧ (0 : Nibble).toNat + 1 = 1 ∧
    (∀ r : Nibble, r.toNat ≤ (0 : Nibble).toNat → (fun _ => 0 : Nat → Byte) r.toNat = (withI 0xFFF).getV r) ∧
    (withI 0xFFF).i.toNat + 1 ≤ 0x1000 ∧
    ∃ t, exec (.ldStore 0) (withI 0xFFF) = .next t ∧ { t with pc := 0xFFE }.mem = t.mem ∧
      { t with pc := 0xFFE }.pc.toNat ≤ 0xFFE :=
  ⟨rfl, rfl, fun r _ => by simp [withI, State.reset, State.getV], by decide, _, rfl, rfl, by decide⟩
/-- FX33 stores 2, 5, 5 over the very next instruction. -/
theorem witness_StoredCodeIsFetched_bcd :
    (withI 0x202).mem.wf = true ∧
    ((fun k => if k = 0 then 2 else 5 : Nat → Byte) 0).toNat = (((withI 0x202).setV 0 0xFF).getV 0).toNat / 100 ∧
    ((fun k => if k = 0 then 2 else 5 : Nat → Byte) 1).toNat = (((withI 0x202).setV 0 0xFF).getV 0).toNat / 10 % 10 ∧
    ((fun k => if k = 0 then 2 else 5 : Nat → Byte) 2).toNat = (((withI 0x202).setV 0 0xFF).getV 0).toNat % 10 ∧
    ((withI 0x202).setV 0 0xFF).i.toNat + 3 ≤ 0x1000 ∧
    ∃ t, exec (.ldB 0) ((withI 0x202).setV 0 0xFF) = .next t ∧ t.mem = t.mem ∧ t.pc.toNat ≤ 0xFFE :=
  ⟨rfl, by decide, by decide, by decide, by decide, _, rfl, rfl, by decide⟩

theorem witness_DrawXorsTheSprite :
    (withI 0xFFF).i.toNat + (0x1#4).toNat - 1 ≤ 0xFFF ∧ (0x0#4 = 0 ∧ (withI 0x1234).i.toNat > 0xFFF) ∧
    (0x2#4 ≠ 0 ∧ (withI 0xFFF).i.toNat + (0x2#4).toNat - 1 > 0xFFF) := by decide
/-- G6: the pixel (7, 0) is covered by the sprite 01 at (0, 0), and the pixel (0, 0) is not. -/
theorem witness_DrawXorsTheSprite_pixels :
    SpriteCovers (withBytes 0xFFF [0x01]) 1 2 1 0 7 ∧ ¬SpriteCovers (withBytes 0xFFF [0x01]) 1 2 1 0 0 := by
  constructor
  · exact ⟨0, 7, by decide, by decide, by decide, by decide, by decide⟩
  · rintro ⟨r, c, hr, hc, -, hx, hb⟩
    obtain rfl : r = 0 := by simp at hr; omega
    have h0 : (withBytes 0xFFF [0x01]).getV 1 = 0 := by decide
    rw [h0] at hx
    obtain rfl : c = 0 := by simp at hx; omega
    exact absurd hb (by decide)
theorem witness_DrawingTwiceRestoresTheFrame :
    0xE#4 ≠ 0xF#4 ∧ 0x0#4 ≠ 0xF#4 ∧ (withI 0xFF1).i.toNat + (0xF#4).toNat - 1 ≤ 0xFFF := by decide
theorem witness_WaitForKeyStoresANewKey :
    (∃ k < 16, { State.reset with key := 0x8000 }.key.getLsbD k = true ∧
      { State.reset with key := 0x8000 }.keyPrev.getLsbD k = false) ∧
    (∀ k < 16, { State.reset with key := 0x8001, keyPrev := 0x8001 }.key.getLsbD k = true →
      { State.reset with key := 0x8001, keyPrev := 0x8001 }.keyPrev.getLsbD k = true) ∧
    State.reset.params.keyPick = .lowest :=
  ⟨⟨15, by decide⟩, fun _ _ h => h, rfl⟩

/-! An instruction that goes on and one that faults, for the statements about every instruction. -/

theorem witness_FaultsHaveExactlyTheirCauses :
    State.reset.fault = .running ∧ (∃ t, exec (.sys 0) State.reset = .next t ∧ t.fault = .unknownInstruction) ∧
    ((withStack 24).fault = .running ∧ ∃ t, exec (.call 0) (withStack 24) = .next t ∧ t.fault = .stackOverflow) ∧
    (∃ t, exec .ret State.reset = .next t ∧ t.fault = .stackUnderflow) ∧
    ((withI 0xFFE).fault = .running ∧ ∃ t, exec (.ldB 0) (withI 0xFFE) = .next t ∧ t.fault = .addressOutOfRange) ∧
    (∃ t, exec (.ldB 0) (withI 0xFFD) = .next t ∧ t.fault = .running) :=
  ⟨rfl, ⟨_, rfl, rfl⟩, ⟨rfl, _, rfl, rfl⟩, ⟨_, rfl, rfl⟩, ⟨rfl, _, rfl, by decide⟩, ⟨_, rfl, by decide⟩⟩
theorem witness_FaultsArePrecise :
    (atPc 0xFFF []).fault = .running ∧ (atPc 0xFFF []).nextEvent = .cycle 3 5 ∧
    ∃ t, step (atPc 0xFFF []) = .next t ∧ t.fault ≠ .running := ⟨rfl, rfl, _, rfl, by decide⟩
theorem witness_OnlyListedRegistersAreWritten :
    (∃ t, exec (.ldLoad 3) State.reset = .next t) ∧ ¬mayWriteRegister State.reset.params (.ldLoad 3) 4 :=
  ⟨⟨_, rfl⟩, by simp [mayWriteRegister]⟩
theorem witness_EachMemoryHasItsOwnWriters :
    (∃ t, exec (.ldLoad 3) State.reset = .next t) ∧ Instr.ldLoad 3 ≠ .ret ∧ (∀ nnn, Instr.ldLoad 3 ≠ .call nnn) ∧
    Instr.ldLoad 3 ≠ .cls ∧ (∀ x y n, Instr.ldLoad 3 ≠ .drw x y n) ∧ (∀ x, Instr.ldLoad 3 ≠ .ldB x) ∧
    (∀ x, Instr.ldLoad 3 ≠ .ldStore x) ∧ (∀ nnn, Instr.ldLoad 3 ≠ .ldI nnn) ∧ (∀ x, Instr.ldLoad 3 ≠ .addI x) ∧
    (∀ x, Instr.ldLoad 3 ≠ .ldF x) ∧ State.reset.params.ldstIncrementsI = false :=
  ⟨⟨_, rfl⟩, by simp, by simp, by simp, by simp, by simp, by simp, by simp, by simp, by simp, rfl⟩
theorem witness_TimersAndInputsHaveNoOtherWriter :
    (∃ t, exec (.ldVxDt 3) State.reset = .next t) ∧ (∀ x, Instr.ldVxDt 3 ≠ .ldDtVx x) ∧
    ∀ x, Instr.ldVxDt 3 ≠ .ldStVx x := ⟨⟨_, rfl⟩, by simp, by simp⟩
theorem witness_ProgramCounterFollowsItsTable :
    State.reset.fault = .running ∧ (∃ t, exec (.skp 3) State.reset = .next t ∧ t.fault = .running) ∧
    (∃ t, exec .ret State.reset = .next t ∧ t.fault ≠ .running) ∧ Instr.skp 3 ≠ .ret ∧
    ∀ nnn, Instr.skp 3 ≠ .jp nnn ∧ Instr.skp 3 ≠ .call nnn ∧ Instr.skp 3 ≠ .jpV0 nnn :=
  ⟨rfl, ⟨_, rfl, rfl⟩, ⟨_, rfl, by decide⟩, by simp, by simp⟩
theorem witness_RandomByteMattersToRndOnly :
    (∀ x nn, Instr.drw 1 2 3 ≠ .rnd x nn) ∧ ∃ t, exec (.drw 1 2 3) State.reset = .next t := ⟨by simp, _, rfl⟩
theorem witness_KeysMatterToKeyInstructionsOnly :
    (∀ x, Instr.drw 1 2 3 ≠ .ldVxK x) ∧ (∀ x, Instr.drw 1 2 3 ≠ .skp x ∧ Instr.drw 1 2 3 ≠ .sknp x) ∧
    (∀ x, Instr.skp 1 ≠ .ldVxK x) ∧ (∃ t, exec (.skp 1) State.reset = .next t) ∧
    ∃ t, exec (.drw 1 2 3) State.reset = .next t := ⟨by simp, by simp, by simp, ⟨_, rfl⟩, _, rfl⟩
theorem witness_OutputsAreReadByNoInstruction :
    (∃ t, exec .cls State.reset = .next t) ∧ (∀ x, Instr.cls ≠ .ldStVx x) ∧
    ((∃ t, exec (.ldStVx 1) State.reset = .next t) ∧ (∃ x, Instr.ldStVx 1 = .ldStVx x) ∧ Instr.ldStVx 1 ≠ .cls ∧
      ∀ x y n : Nibble, Instr.ldStVx 1 = .drw x y n → n ≠ 0 ∧ State.reset.i.toNat + n.toNat - 1 > 0xFFF) ∧
    ((∃ t, exec (.drw 1 2 1) (withI 0xFFF) = .next t) ∧ (withI 0xFFF).i.toNat + (1 : Nibble).toNat - 1 ≤ 0xFFF) ∧
    ((∃ t, exec (.drw 1 2 2) (withI 0xFFF) = .next t) ∧
      ∀ x y n : Nibble, Instr.drw 1 2 2 = .drw x y n → n ≠ 0 ∧ (withI 0xFFF).i.toNat + n.toNat - 1 > 0xFFF) := by
  refine ⟨⟨_, rfl⟩, by simp, ⟨⟨_, rfl⟩, ⟨1, rfl⟩, by simp, by simp⟩, ⟨⟨_, rfl⟩, by decide⟩, ⟨_, rfl⟩, ?_⟩
  rintro x y n h
  cases h
  decide

/-- The invariant holds of the state in which `PC` is the largest it allows. -/
theorem witness_EveryStepKeepsTheInvariant :
    Inv (atPc 0x10FE []) ∧ (∃ t, step (atPc 0x10FE []) = .next t) ∧ ∃ t, step State.reset = .next t :=
  ⟨⟨rfl, by decide, fun k h hk => absurd hk (by simp [atPc, State.reset]),
    by simp [atPc, State.reset, Config.prescaleDiv], fun _ => rfl, fun _ => rfl, fun h => (by cases h),
    fun h => (by cases h), fun h => (by cases h)⟩, ⟨_, rfl⟩, ⟨_, rfl⟩⟩
theorem witness_FinishedRunStaysPut :
    (atPc 0x200 [0x12, 0x00]).finished ∧ (atPc 0x200 [0x12, 0x00]).nextEvent = .cycle 3 5 :=
  ⟨⟨rfl, 0x200, by decide, by rfl⟩, rfl⟩

end Sys2Proof.Tests
end

section
/-! PROOF. One cycle of a running core, step by step (R3). -/

namespace Sys2Proof.Machine

/-- Taking the next event and sampling the inputs gives the state the statements about a cycle speak of. -/
theorem State.sample_takeEvent (s : State) (k : Word) (r : Byte) : s.takeEvent.sample k r = s.started k r := rfl

/-- Steps 2 to 5 are all that is left of a step once a running core's cycle has sampled its inputs (R3). -/
theorem step_cycle {s : State} {k : Word} {r : Byte} (hrun : s.fault = .running) (hev : s.nextEvent = .cycle k r) :
    step s = runInstruction (s.started k r) := by
  have htaken : s.takeEvent.fault = .running := hrun
  rw [step_eq, hev, runEvent_cycle htaken, State.sample_takeEvent]

/-- Two bytes decode to what the word they make decodes to (R45). -/
theorem decode_pair_ok_iff {hi lo : Byte} {i : Instr} :
    decode [hi, lo] = .ok (i, []) ↔ decodeWord (wordOfBytes hi lo) = .ok i := by
  rw [decode]
  cases decodeWord (wordOfBytes hi lo) <;> simp

/-- Steps 3 to 5 on a fetched word that stands for an instruction (R3). -/
theorem runInstruction_of_decodeWord {s : State} {w : Word} {i : Instr} (hfetch : s.fetch = .ok w)
    (hdec : decodeWord w = .ok i) : runInstruction s = finishCycle (exec i s) := by
  simp only [runInstruction, hfetch, hdec]

/-- Step 5 by the fault the instruction left: the keys are latched unless one was raised (R3, R27). -/
theorem State.latchKeys_eq_ite (s : State) :
    s.latchKeys = if s.fault = .running then { s with keyPrev := s.key } else s := by
  split
  · exact State.latchKeys_running ‹_›
  · exact State.latchKeys_halted ‹_›

/-- Settles O9: the step is `runInstruction` on the sampled state, whose fetch reads the two bytes that decode to `i`;
what `exec i` answers is then latched. -/
theorem stepRunsTheDecodedInstruction : Obligations.StepRunsTheDecodedInstruction := by
  intro s k r i t hrun hev hpc hdec hexec
  have hfetch : (s.started k r).fetch = .ok (wordOfBytes (s.mem.read s.pc.toNat) (s.mem.read (s.pc.toNat + 1))) :=
    State.fetch_inRange (s := s.started k r) (Nat.le_of_succ_le_succ hpc)
  calc step s = runInstruction (s.started k r) := step_cycle hrun hev
    _ = finishCycle (exec i (s.started k r)) := runInstruction_of_decodeWord hfetch (decode_pair_ok_iff.mp hdec)
    _ = .next t.latchKeys := by rw [hexec, finishCycle]
    _ = .next (if t.fault = .running then { t with keyPrev := t.key } else t) := by rw [State.latchKeys_eq_ite]

end Sys2Proof.Machine
end

section
/-! PROOF. What an instruction answers, ordered by state element: the fault it raises (R160 to R164), or else the value
of each element that some instruction writes, element by element as 10_state.md lists them. `exec_eq` ties both to
`exec`; the claims about writers and readers then look at one element's table. -/

namespace Sys2Proof.Machine

/-! ### The fault an instruction raises -/

/-- The fault of a guarded access to the `n` bytes from `I`, and what it records (R43, R126). -/
def State.rangeFault (n : Nat) (s : State) : Option (FaultKind × Word) :=
  (rangeError s.i.toNat n).map fun bad => (.addressOutOfRange, bad)

/-- The fault that an instruction raises at `s`, and what it records (R160 to R164). -/
def faultOf : Instr → State → Option (FaultKind × Word)
  | .sys nnn, s => if s.params.sysIsNop then none else some (.unknownInstruction, zextAddr nnn)
  | .ret, s => if s.sp.val = 0 then some (.stackUnderflow, s.pc) else none
  | .call _, s => if s.sp.val = 24 then some (.stackOverflow, s.pc) else none
  | .drw _ _ n, s => s.rangeFault n.toNat
  | .ldB _, s => s.rangeFault 3
  | .ldStore x, s | .ldLoad x, s => s.rangeFault (rangeCount x)
  | _, _ => none

/-! ### The value of each element after an instruction that raises no fault -/

/-- `MEM` (R29). -/
def nextMem : Instr → State → Memory
  | .ldB x, s => s.mem.writeBytes s.i.toNat (bcdDigits (s.getV x))
  | .ldStore x, s => s.mem.writeBytes s.i.toNat (s.firstRegisters x)
  | _, s => s.mem

/-- `V0`..`VF` with a logical result in `VX`, and `VF` cleared when `LOGIC_RESETS_VF` (R103 to R105). -/
def State.logicRegisters (x : Nibble) (result : Byte) (s : State) : Registers :=
  if s.params.logicResetsVf then ((s.setV x result).setV 0xF#4 0).v else (s.setV x result).v

/-- `V0`..`VF` (R11). -/
def nextRegisters : Instr → State → Registers
  | .ldImm x nn, s => (s.setV x nn).v
  | .addImm x nn, s => (s.setV x (addBytes (s.getV x) nn)).v
  | .ldReg x y, s => (s.setV x (s.getV y)).v
  | .or x y, s => s.logicRegisters x (s.getV x ||| s.getV y)
  | .and x y, s => s.logicRegisters x (s.getV x &&& s.getV y)
  | .xor x y, s => s.logicRegisters x (s.getV x ^^^ s.getV y)
  | .addReg x y, s => (s.setResultFlag x (addBytes (s.getV x) (s.getV y)) (carryOut (s.getV x) (s.getV y))).v
  | .sub x y, s => (s.setResultFlag x (subBytes (s.getV x) (s.getV y)) (noBorrow (s.getV x) (s.getV y))).v
  | .shr x y, s => (s.setResultFlag x (s.shiftOperand x y >>> 1) (shiftedOutRight (s.shiftOperand x y))).v
  | .subn x y, s => (s.setResultFlag x (subBytes (s.getV y) (s.getV x)) (noBorrow (s.getV y) (s.getV x))).v
  | .shl x y, s => (s.setResultFlag x (s.shiftOperand x y <<< 1) (shiftedOutLeft (s.shiftOperand x y))).v
  | .rnd x nn, s => (s.setV x (s.rndIn &&& nn)).v
  | .drw x y n, s => (s.setV 0xF#4 (flagByte (s.drawn x y n).2)).v
  | .ldVxDt x, s => (s.setV x s.dt).v
  | .ldVxK x, s => if s.newKeys = 0 then s.v else (s.setV x ((pickKey s.params.keyPick s.newKeys).setWidth 8)).v
  | .ldLoad x, s => loadRegisters s.mem s.i.toNat (rangeCount x) s.v
  | _, s => s.v

/-- `I` (R13). -/
def nextIndex : Instr → State → Word
  | .ldI nnn, _ => zextAddr nnn
  | .addI x, s => s.i + zextByte (s.getV x)
  | .ldF x, s => glyphAddress (s.getV x)
  | .ldStore x, s | .ldLoad x, s => s.indexAfterRange x
  | _, s => s.i

/-- The entry on top of the stack (R16), which RET jumps to (R81). -/
def State.topEntry (s : State) : Word :=
  s.stack[s.sp.val - 1]'(by have := s.sp.isLt; omega)

/-- `PC` (R15). -/
def nextPc : Instr → State → Word
  | .ret, s => s.topEntry
  | .jp nnn, _ | .call nnn, _ => zextAddr nnn
  | .jpV0 nnn, s => zextAddr nnn + zextByte (s.getV 0)
  | .seImm x nn, s => (s.skipIf (s.getV x == nn)).pc
  | .sneImm x nn, s => (s.skipIf (s.getV x != nn)).pc
  | .seReg x y _, s => (s.skipIf (s.getV x == s.getV y)).pc
  | .sneReg x y _, s => (s.skipIf (s.getV x != s.getV y)).pc
  | .skp x, s => (s.skipIf (s.keyDown x)).pc
  | .sknp x, s => (s.skipIf (!s.keyDown x)).pc
  | .ldVxK _, s => if s.newKeys = 0 then s.pc else s.pc + 2
  | _, s => s.pc + 2

/-- `STACK` (R16): RET leaves the entry it pops (R21). -/
def nextStack : Instr → State → Vector Word 24
  | .call _, s => s.stack.setIfInBounds s.sp.val (s.pc + 2)
  | _, s => s.stack

/-- `SP` (R17). -/
def nextSp : Instr → State → Fin 25
  | .call _, s => Fin.ofNat 25 (s.sp.val + 1)
  | .ret, s => ⟨s.sp.val - 1, Nat.lt_of_le_of_lt (Nat.sub_le _ _) s.sp.isLt⟩
  | _, s => s.sp

/-- `DT` (R22). -/
def nextDt : Instr → State → Byte
  | .ldDtVx x, s => s.getV x
  | _, s => s.dt

/-- `ST` (R23). -/
def nextSt : Instr → State → Byte
  | .ldStVx x, s => s.getV x
  | _, s => s.st

/-- `FB` (R24). -/
def nextFb : Instr → State → FrameBuffer
  | .cls, _ => Vector.replicate 32 0
  | .drw x y n, s => (s.drawn x y n).1
  | _, s => s.fb

/-- `DIRTY` (R25). -/
def nextDirty : Instr → State → Bool
  | .cls, _ | .drw _ _ _, _ => true
  | _, s => s.dirty

/-- The state after an instruction that raises no fault: no instruction writes an element that is not named here. -/
def effect (i : Instr) (s : State) : State :=
  { s with
    mem := nextMem i s, v := nextRegisters i s, i := nextIndex i s, pc := nextPc i s, stack := nextStack i s
    sp := nextSp i s, dt := nextDt i s, st := nextSt i s, fb := nextFb i s, dirty := nextDirty i s }

/-! ### These are what `exec` answers -/

theorem State.setLogic_eq (s : State) (x : Nibble) (b : Byte) :
    s.setLogic x b = { s with v := s.logicRegisters x b } := by
  unfold State.setLogic State.logicRegisters
  split <;> rfl

theorem State.topEntry_eq {s : State} {k : Nat} (hk : k < 24) (h : s.sp.val = k + 1) : s.topEntry = s.stack[k] := by
  simp [State.topEntry, h]

/-- What an instruction answers: the halted state of its fault, or else its effect. -/
def answer (i : Instr) (s : State) : State := (faultOf i s).elim (effect i s) fun f => s.raise f.1 f.2

theorem answer_of_fault {i : Instr} {s : State} {k : FaultKind} {info : Word} (h : faultOf i s = some (k, info)) :
    answer i s = s.raise k info := by rw [answer, h]; rfl

theorem answer_of_noFault {i : Instr} {s : State} (h : faultOf i s = none) : answer i s = effect i s := by
  rw [answer, h]; rfl

theorem withRange_eq (n : Nat) (s body : State) :
    withRange n s body = .next ((s.rangeFault n).elim body fun f => s.raise f.1 f.2) := by
  rw [withRange, State.rangeFault]
  cases rangeError s.i.toNat n <;> rfl

theorem execRet_eq (s : State) : exec .ret s = .next (answer .ret s) := by
  rcases s.pop_cases with ⟨h0, hp⟩ | ⟨k, hk, hs, hp⟩
  · have hf : faultOf .ret s = some (.stackUnderflow, s.pc) := if_pos h0
    rw [answer_of_fault hf]
    simp only [exec, execRet, hp, raiseFault]
  · have hf : faultOf .ret s = none := if_neg (by omega)
    rw [answer_of_noFault hf]
    simp only [exec, execRet, hp, effect, nextPc, nextSp, State.topEntry_eq hk hs, hs, Nat.add_sub_cancel]
    rfl

theorem execCall_eq (nnn : Addr12) (s : State) : exec (.call nnn) s = .next (answer (.call nnn) s) := by
  rcases s.push_cases (s.pc + 2) with ⟨h0, hp⟩ | ⟨hk, hp⟩
  · have hf : faultOf (.call nnn) s = some (.stackOverflow, s.pc) := if_pos h0
    rw [answer_of_fault hf]
    simp only [exec, execCall, hp, raiseFault]
  · have hf : faultOf (.call nnn) s = none := if_neg (by omega)
    have hsp : (⟨s.sp.val + 1, Nat.succ_lt_succ hk⟩ : Fin 25) = Fin.ofNat 25 (s.sp.val + 1) :=
      Fin.ext (Nat.mod_eq_of_lt (Nat.succ_lt_succ hk)).symm
    have hst : s.stack.set s.sp.val (s.pc + 2) hk = s.stack.setIfInBounds s.sp.val (s.pc + 2) := by
      ext j hj
      simp [Vector.getElem_set, Vector.getElem_setIfInBounds]
    rw [answer_of_noFault hf]
    simp only [exec, execCall, hp, hsp, hst]
    rfl

/-- Every instruction answers a next state: the halted one of its fault, or else its effect on each element. -/
theorem exec_eq (i : Instr) (s : State) : exec i s = .next (answer i s) := by
  cases i with
  | sys nnn =>
    simp only [exec, execSys, answer, faultOf]
    split <;> rfl
  | ret => exact execRet_eq s
  | call nnn => exact execCall_eq nnn s
  | or x y | and x y | xor x y =>
    simp only [exec, execOr, execAnd, execXor, State.setLogic_eq]
    rfl
  | ldVxK x =>
    rw [answer_of_noFault rfl, exec, execLdVxK, effect, nextRegisters, nextPc]
    split <;> rfl
  | drw x y n | ldB x | ldStore x | ldLoad x => exact withRange_eq _ s _
  | _ => rfl

/-- All that an instruction can answer. -/
theorem exec_cases {i : Instr} {s t : State} (h : exec i s = .next t) :
    (∃ k info, faultOf i s = some (k, info) ∧ t = s.raise k info) ∨ (faultOf i s = none ∧ t = effect i s) := by
  rw [exec_eq] at h
  cases h
  cases hf : faultOf i s with
  | none => exact .inr ⟨rfl, answer_of_noFault hf⟩
  | some f => exact .inl ⟨f.1, f.2, rfl, answer_of_fault hf⟩

/-! ### What a raised fault records -/

/-- What a fault of kind `k` raised at `s` records (R161 to R164). -/
structure Recorded (s : State) (k : FaultKind) (info : Word) : Prop where
  halts : k ≠ .running
  overflow : k = .stackOverflow → s.sp.val = 24 ∧ info = s.pc
  underflow : k = .stackUnderflow → s.sp.val = 0 ∧ info = s.pc
  badAddress : k = .addressOutOfRange → 0x1000 ≤ info.toNat

theorem Recorded.unknownInstruction (s : State) (w : Word) : Recorded s .unknownInstruction w :=
  ⟨nofun, nofun, nofun, nofun⟩

theorem Recorded.addressOutOfRange (s : State) {bad : Word} (h : 0x1000 ≤ bad.toNat) :
    Recorded s .addressOutOfRange bad := ⟨nofun, nofun, nofun, fun _ => h⟩

/-- The guard passes, or its fault records an address above 0xFFF. -/
theorem State.rangeFault_eq_some {s : State} {n : Nat} {k : FaultKind} {info : Word}
    (h : s.rangeFault n = some (k, info)) : k = .addressOutOfRange ∧ 0x1000 ≤ info.toNat := by
  obtain ⟨bad, hbad, heq⟩ := Option.map_eq_some_iff.mp h
  cases heq
  refine ⟨rfl, ?_⟩
  rw [rangeError] at hbad
  split at hbad
  · cases hbad
  · cases hbad
    exact badAddress_ge _ s.i.isLt

theorem State.rangeFault_eq_none {s : State} {n : Nat} :
    s.rangeFault n = none ↔ n = 0 ∨ s.i.toNat + n ≤ memSize := by
  rw [State.rangeFault, Option.map_eq_none_iff, rangeError, ite_eq_left_iff]
  simp only [reduceCtorEq, imp_false, not_not]

theorem State.rangeFault_recorded {s : State} {n : Nat} {k : FaultKind} {info : Word}
    (h : s.rangeFault n = some (k, info)) : Recorded s k info := by
  obtain ⟨rfl, hbad⟩ := State.rangeFault_eq_some h
  exact .addressOutOfRange s hbad

/-- An instruction's fault halts the core and records what its kind asks for. -/
theorem faultOf_recorded {i : Instr} {s : State} {k : FaultKind} {info : Word} (h : faultOf i s = some (k, info)) :
    Recorded s k info := by
  cases i with
  | sys nnn =>
    rw [faultOf] at h
    split at h <;> cases h
    exact .unknownInstruction s _
  | ret =>
    rw [faultOf] at h
    split at h <;> cases h
    exact ⟨nofun, nofun, fun _ => ⟨‹_›, rfl⟩, nofun⟩
  | call nnn =>
    rw [faultOf] at h
    split at h <;> cases h
    exact ⟨nofun, fun _ => ⟨‹_›, rfl⟩, nofun, nofun⟩
  | drw x y n | ldB x | ldStore x | ldLoad x => exact State.rangeFault_recorded h
  | _ => cases h

end Sys2Proof.Machine
end

section
/-! PROOF. Writers (10_state.md): which registers, memories, timers and program-counter values an instruction leaves, and
which it keeps. -/

namespace Sys2Proof.Machine

/-! ### Registers (R11, R12) -/

/-- With no fault, a register that an instruction may not write keeps its value. -/
theorem getV_effect {i : Instr} {s : State} {r : Nibble} (h : ¬mayWriteRegister s.params i r) :
    (effect i s).getV r = s.getV r := by
  cases i with
  | ldImm x _ | rnd x _ | ldVxDt x | addImm x _ | ldReg x _ => exact State.getV_setV_ne h s _
  | drw x y n => exact State.getV_setV_ne h s _
  | ldVxK x =>
    by_cases hk : s.newKeys = 0
    · exact State.getV_congr (if_pos hk) r
    · exact (State.getV_congr (if_neg hk) r).trans (State.getV_setV_ne h s _)
  | or x y | and x y | xor x y =>
    obtain ⟨hx, hf⟩ := not_or.mp h
    refine (State.getV_congr (congrArg State.v (State.setLogic_eq s x _)).symm r).trans ?_
    rw [State.getV_setLogic, if_neg hf, if_neg hx]
  | addReg x y | sub x y | subn x y | shr x y | shl x y =>
    obtain ⟨hx, hf⟩ := not_or.mp h
    exact (State.getV_setResultFlag s x r _ _).trans (by rw [if_neg hf, if_neg hx])
  | ldLoad x =>
    have hlt : ¬r.toNat < rangeCount x := fun hlt => h (Nat.le_of_lt_succ hlt)
    exact (loadRegisters_getElem _ _ _ _ _ x.isLt r.isLt).trans (if_neg hlt)
  | _ => rfl

/-- Settles O51: a fault writes no register, and an effect only those of `getV_effect`. -/
theorem onlyListedRegistersAreWritten : Obligations.OnlyListedRegistersAreWritten := by
  intro i s t r hexec hr
  rcases exec_cases hexec with ⟨k, info, -, rfl⟩ | ⟨-, rfl⟩
  · rfl
  · exact getV_effect hr

/-! ### The memories and `I` (R13, R17, R24, R25, R29) -/

theorem nextSp_of_ne {i : Instr} (s : State) (hret : i ≠ .ret) (hcall : ∀ nnn, i ≠ .call nnn) : nextSp i s = s.sp := by
  cases i with
  | ret => exact absurd rfl hret
  | call nnn => exact absurd rfl (hcall nnn)
  | _ => rfl

theorem nextStack_of_ne {i : Instr} (s : State) (hcall : ∀ nnn, i ≠ .call nnn) : nextStack i s = s.stack := by
  cases i with
  | call nnn => exact absurd rfl (hcall nnn)
  | _ => rfl

theorem nextFb_of_ne {i : Instr} (s : State) (hcls : i ≠ .cls) (hdrw : ∀ x y n, i ≠ .drw x y n) :
    nextFb i s = s.fb := by
  cases i with
  | cls => exact absurd rfl hcls
  | drw x y n => exact absurd rfl (hdrw x y n)
  | _ => rfl

theorem nextDirty_of_ne {i : Instr} (s : State) (hcls : i ≠ .cls) (hdrw : ∀ x y n, i ≠ .drw x y n) :
    nextDirty i s = s.dirty := by
  cases i with
  | cls => exact absurd rfl hcls
  | drw x y n => exact absurd rfl (hdrw x y n)
  | _ => rfl

theorem nextMem_of_ne {i : Instr} (s : State) (hbcd : ∀ x, i ≠ .ldB x) (hstore : ∀ x, i ≠ .ldStore x) :
    nextMem i s = s.mem := by
  cases i with
  | ldB x => exact absurd rfl (hbcd x)
  | ldStore x => exact absurd rfl (hstore x)
  | _ => rfl

theorem nextIndex_of_ne {i : Instr} {s : State} (hldI : ∀ nnn, i ≠ .ldI nnn) (haddI : ∀ x, i ≠ .addI x)
    (hldF : ∀ x, i ≠ .ldF x)
    (hrange : s.params.ldstIncrementsI = true → ∀ x, i ≠ .ldStore x ∧ i ≠ .ldLoad x) : nextIndex i s = s.i := by
  cases i with
  | ldI nnn => exact absurd rfl (hldI nnn)
  | addI x => exact absurd rfl (haddI x)
  | ldF x => exact absurd rfl (hldF x)
  | ldStore x => exact if_neg fun hp => (hrange hp x).1 rfl
  | ldLoad x => exact if_neg fun hp => (hrange hp x).2 rfl
  | _ => rfl

/-- Settles O52: a fault writes none of them, and an effect only by the writers its tables name. -/
theorem eachMemoryHasItsOwnWriters : Obligations.EachMemoryHasItsOwnWriters := by
  intro i s t hexec
  rcases exec_cases hexec with ⟨k, info, -, rfl⟩ | ⟨-, rfl⟩
  · exact ⟨fun _ _ => ⟨rfl, rfl⟩, fun _ _ => ⟨rfl, rfl⟩, fun _ _ => rfl, fun _ _ _ _ => rfl⟩
  · exact ⟨fun hret hcall => ⟨nextSp_of_ne s hret hcall, nextStack_of_ne s hcall⟩,
      fun hcls hdrw => ⟨nextFb_of_ne s hcls hdrw, nextDirty_of_ne s hcls hdrw⟩, nextMem_of_ne s, nextIndex_of_ne⟩

/-! ### Timers and inputs (R22, R23, R26 to R28) -/

theorem nextDt_of_ne {i : Instr} (s : State) (h : ∀ x, i ≠ .ldDtVx x) : nextDt i s = s.dt := by
  cases i with
  | ldDtVx x => exact absurd rfl (h x)
  | _ => rfl

theorem nextSt_of_ne {i : Instr} (s : State) (h : ∀ x, i ≠ .ldStVx x) : nextSt i s = s.st := by
  cases i with
  | ldStVx x => exact absurd rfl (h x)
  | _ => rfl

/-- Settles O53: DT and ST have one writer each in their tables, and the other elements have no table at all. -/
theorem timersAndInputsHaveNoOtherWriter : Obligations.TimersAndInputsHaveNoOtherWriter := by
  intro i s t hexec
  rcases exec_cases hexec with ⟨k, info, -, rfl⟩ | ⟨-, rfl⟩
  · exact ⟨fun _ => rfl, fun _ => rfl, rfl, rfl, rfl, rfl, rfl, rfl, rfl, rfl⟩
  · exact ⟨nextDt_of_ne s, nextSt_of_ne s, rfl, rfl, rfl, rfl, rfl, rfl, rfl, rfl⟩

/-! ### The program counter (R15) -/

/-- The skips of R15: those that test a register and those that test a key. -/
def IsSkip (i : Instr) : Prop :=
  (∃ x nn, i = .seImm x nn ∨ i = .sneImm x nn) ∨ (∃ x y low, i = .seReg x y low ∨ i = .sneReg x y low) ∨
    ∃ x, i = .skp x ∨ i = .sknp x

/-- Where R15 lets an instruction that is no jump go on: 2 further, 4 further if it is a skip, or nowhere if it is a key
wait. -/
def GoesOn (i : Instr) (s t : State) : Prop :=
  t.pc = s.pc + 2 ∨ (t.pc = s.pc + 4 ∧ IsSkip i) ∨ (t = s ∧ ∃ x, i = .ldVxK x)

theorem State.skipIf_pc_cases (c : Bool) (s : State) : (s.skipIf c).pc = s.pc + 2 ∨ (s.skipIf c).pc = s.pc + 4 := by
  cases c with
  | true => exact .inr rfl
  | false => exact .inl rfl

theorem goesOn_of_isSkip {i : Instr} {s t : State} (hi : IsSkip i) (c : Bool) (hpc : t.pc = (s.skipIf c).pc) :
    GoesOn i s t :=
  (s.skipIf_pc_cases c).imp hpc.trans fun h4 => .inl ⟨hpc.trans h4, hi⟩

/-- While FX0A waits for a key, nothing changes (R142). -/
theorem effect_ldVxK_of_noNewKey {s : State} (h : s.newKeys = 0) (x : Nibble) : effect (.ldVxK x) s = s := by
  simp only [effect, nextRegisters, nextPc, if_pos h]
  rfl

theorem goesOn_effect {i : Instr} (s : State) (hret : i ≠ .ret)
    (hjump : ∀ nnn, i ≠ .jp nnn ∧ i ≠ .call nnn ∧ i ≠ .jpV0 nnn) : GoesOn i s (effect i s) := by
  cases i with
  | ret => exact absurd rfl hret
  | jp nnn | call nnn | jpV0 nnn => simp at hjump
  | seImm x nn => exact goesOn_of_isSkip (.inl ⟨x, nn, .inl rfl⟩) _ rfl
  | sneImm x nn => exact goesOn_of_isSkip (.inl ⟨x, nn, .inr rfl⟩) _ rfl
  | seReg x y low => exact goesOn_of_isSkip (.inr (.inl ⟨x, y, low, .inl rfl⟩)) _ rfl
  | sneReg x y low => exact goesOn_of_isSkip (.inr (.inl ⟨x, y, low, .inr rfl⟩)) _ rfl
  | skp x => exact goesOn_of_isSkip (.inr (.inr ⟨x, .inl rfl⟩)) _ rfl
  | sknp x => exact goesOn_of_isSkip (.inr (.inr ⟨x, .inr rfl⟩)) _ rfl
  | ldVxK x =>
    by_cases hk : s.newKeys = 0
    · exact .inr (.inr ⟨effect_ldVxK_of_noNewKey hk x, x, rfl⟩)
    · exact .inl (if_neg hk)
  | _ => exact .inl rfl

/-- Settles O54: a fault halts the core and leaves `PC`; an effect leaves it running and moves `PC` by `goesOn_effect`. -/
theorem programCounterFollowsItsTable : Obligations.ProgramCounterFollowsItsTable := by
  intro i s t hrun hexec
  rcases exec_cases hexec with ⟨k, info, hf, rfl⟩ | ⟨-, rfl⟩
  · exact ⟨fun _ => rfl, fun hok => absurd hok (faultOf_recorded hf).halts⟩
  · exact ⟨fun hhalt => absurd hrun hhalt, fun _ hret hjump => goesOn_effect s hret hjump⟩

end Sys2Proof.Machine
end

section
/-! PROOF. Readers (10_state.md): the elements that an instruction's answer does not depend on. -/

namespace Sys2Proof.Machine

/-- Whether an instruction faults, and with what, depends on the parameters, `PC`, `SP` and `I` only. -/
theorem faultOf_congr (i : Instr) {s s' : State} (hparams : s'.params = s.params) (hpc : s'.pc = s.pc)
    (hsp : s'.sp = s.sp) (hi : s'.i = s.i) : faultOf i s' = faultOf i s := by
  cases i with
  | sys nnn => rw [faultOf, faultOf, hparams]
  | ret | call nnn => rw [faultOf, faultOf, hsp, hpc]
  | drw x y n | ldB x | ldStore x | ldLoad x => rw [faultOf, faultOf, State.rangeFault, State.rangeFault, hi]
  | _ => rfl

/-- An update `f` of the state that commutes with raising faults and with the effect of `i`, and does not bear on whether
`i` faults, commutes with `i`. -/
theorem exec_update {i : Instr} {s t : State} (f : State → State) (hexec : exec i s = .next t)
    (hfault : faultOf i (f s) = faultOf i s) (hraise : ∀ k info, (f s).raise k info = f (s.raise k info))
    (heffect : effect i (f s) = f (effect i s)) : exec i (f s) = .next (f t) := by
  rw [exec_eq, answer, hfault, heffect]
  rcases exec_cases hexec with ⟨k, info, hf, rfl⟩ | ⟨hf, rfl⟩
  · rw [hf, Option.elim_some, hraise]
  · rw [hf, Option.elim_none]

/-! ### The key samples (R26, R27) -/

/-- `KEYPREV` replaced. -/
def State.setKeyPrev (p : Word) (s : State) : State := { s with keyPrev := p }

/-- `KEY` replaced. -/
def State.setKey (k : Word) (s : State) : State := { s with key := k }

theorem effect_setKeyPrev {i : Instr} (s : State) (p : Word) (hwait : ∀ x, i ≠ .ldVxK x) :
    effect i (s.setKeyPrev p) = (effect i s).setKeyPrev p := by
  cases i with
  | ldVxK x => exact absurd rfl (hwait x)
  | _ => rfl

theorem effect_setKey {i : Instr} (s : State) (k : Word) (hwait : ∀ x, i ≠ .ldVxK x)
    (hskip : ∀ x, i ≠ .skp x ∧ i ≠ .sknp x) : effect i (s.setKey k) = (effect i s).setKey k := by
  cases i with
  | ldVxK x => exact absurd rfl (hwait x)
  | skp x => exact absurd rfl (hskip x).1
  | sknp x => exact absurd rfl (hskip x).2
  | _ => rfl

/-- Settles O56: no fault and, but for the key instructions, no effect reads the samples. -/
theorem keysMatterToKeyInstructionsOnly : Obligations.KeysMatterToKeyInstructionsOnly := by
  intro i s t k p hwait hexec
  refine ⟨?_, fun hskip => ?_⟩
  · exact exec_update (State.setKeyPrev p) hexec (faultOf_congr i rfl rfl rfl rfl) (fun _ _ => rfl)
      (effect_setKeyPrev s p hwait)
  · exact exec_update (State.setKey k) hexec (faultOf_congr i rfl rfl rfl rfl) (fun _ _ => rfl)
      (effect_setKey s k hwait hskip)

/-! ### The outputs (R23, R25, R28) -/

/-- `ST`, `PRESC` and `DIRTY` replaced. -/
def State.setOutputs (a : Byte) (p : Nat) (d : Bool) (s : State) : State := { s with st := a, presc := p, dirty := d }

/-- Replacing the outputs first changes no element but them. -/
theorem effect_setOutputs (i : Instr) (s : State) (a : Byte) (p : Nat) (d : Bool) : effect i (s.setOutputs a p d) =
    { effect i s with
      st := nextSt i (s.setOutputs a p d), presc := p, dirty := nextDirty i (s.setOutputs a p d) } := by
  cases i <;> rfl

/-- DRW raises no fault exactly when its rows are in range (R126, R130). -/
theorem faultOf_drw_eq_none {x y n : Nibble} {s : State} :
    faultOf (.drw x y n) s = none ↔ n = 0 ∨ s.i.toNat + n.toNat - 1 ≤ 0xFFF := by
  have hn : n.toNat = 0 ↔ n = 0 := BitVec.toNat_inj (y := 0#4)
  rw [faultOf, State.rangeFault_eq_none, ← hn, memSize]
  omega

/-- CLS and a DRW in range raise no fault. -/
theorem faultOf_eq_none_of_draws {i : Instr} {s : State}
    (h : i = .cls ∨ ∃ x y n : Nibble, i = .drw x y n ∧ (n = 0 ∨ s.i.toNat + n.toNat - 1 ≤ 0xFFF)) :
    faultOf i s = none := by
  rcases h with rfl | ⟨x, y, n, rfl, hrange⟩
  · rfl
  · exact faultOf_drw_eq_none.mpr hrange

/-- Settles O57: replacing the outputs first changes neither whether `i` faults nor any other element; the clauses on `ST`
and `DIRTY` then read their tables. -/
theorem outputsAreReadByNoInstruction : Obligations.OutputsAreReadByNoInstruction := by
  intro i s t a p d hexec
  have hfault : faultOf i (s.setOutputs a p d) = faultOf i s := faultOf_congr i rfl rfl rfl rfl
  refine ⟨answer i (s.setOutputs a p d), exec_eq i _, ?_⟩
  rcases exec_cases hexec with ⟨k, info, hf, rfl⟩ | ⟨hf, rfl⟩
  · rw [answer_of_fault (hfault.trans hf)]
    refine ⟨rfl, fun _ => rfl, ?_, fun hdraws => ?_, fun _ _ => rfl⟩
    · rintro ⟨x, rfl⟩
      cases hf
    · cases hf.symm.trans (faultOf_eq_none_of_draws hdraws)
  · rw [answer_of_noFault (hfault.trans hf)]
    refine ⟨effect_setOutputs i s a p d, nextSt_of_ne (s.setOutputs a p d), ?_, ?_, fun hcls hdrw => ?_⟩
    · rintro ⟨x, rfl⟩
      rfl
    · rintro (rfl | ⟨x, y, n, rfl, -⟩) <;> rfl
    · refine nextDirty_of_ne (s.setOutputs a p d) hcls fun x y n hi => ?_
      obtain ⟨hn, hbad⟩ := hdrw x y n hi
      subst hi
      rcases faultOf_drw_eq_none.mp hf with h0 | hle
      · exact hn h0
      · omega

end Sys2Proof.Machine
end

section
/-! PROOF. The invariant `Inv` is kept by every step (R14, R28, R31, R81). Mid-cycle only the part of it that speaks neither
of `FAULT` nor of the key samples holds (`Bounded`); step 5 of the cycle, or the fault raised, restores the rest. -/

namespace Sys2Proof.Machine

/-- The clauses of `Inv` that hold whether the core runs or not, also between sampling and latching the keys. -/
structure Bounded (s : State) : Prop where
  memory : s.mem.wf = true
  counter : s.pc.toNat ≤ 0x10FE
  returns : ∀ k (h : k < 24), k < s.sp.val → (s.stack[k]'h).toNat ≤ 0x1000
  prescaler : s.presc < Config.prescaleDiv

theorem Inv.bounded {s : State} (hinv : Inv s) : Bounded s :=
  ⟨hinv.memory, hinv.counter, hinv.returns, hinv.prescaler⟩

/-- Of a running core `Inv` asks no more than that the last sample is latched and nothing is recorded. -/
theorem Bounded.inv_of_running {s : State} (hb : Bounded s) (hrun : s.fault = .running) (hkeys : s.keyPrev = s.key)
    (hinfo : s.faultInfo = 0) : Inv s where
  memory := hb.memory
  counter := hb.counter
  returns := hb.returns
  prescaler := hb.prescaler
  keys _ := hkeys
  noInfo _ := hinfo
  overflow h := nomatch hrun.symm.trans h
  underflow h := nomatch hrun.symm.trans h
  badAddress h := nomatch hrun.symm.trans h

/-- Of a core that has just faulted `Inv` asks no more than what the fault records. -/
theorem Bounded.inv_raise {s : State} (hb : Bounded s) {k : FaultKind} {info : Word} (hrec : Recorded s k info) :
    Inv (s.raise k info) where
  memory := hb.memory
  counter := hb.counter
  returns := hb.returns
  prescaler := hb.prescaler
  keys h := absurd h hrec.halts
  noInfo h := absurd h hrec.halts
  overflow := hrec.overflow
  underflow := hrec.underflow
  badAddress := hrec.badAddress

/-! ### An instruction that raises no fault keeps the bounds -/

/-- A store that the guard lets pass writes below `MEM_SIZE` only (R43). -/
theorem wf_nextMem {i : Instr} {s : State} (hwf : s.mem.wf = true) (hok : faultOf i s = none) :
    (nextMem i s).wf = true := by
  cases i with
  | ldB x =>
    have hrange : s.i.toNat + 3 ≤ memSize := (State.rangeFault_eq_none.mp hok).resolve_left nofun
    exact Memory.wf_writeBytes hwf hrange
  | ldStore x =>
    have hrange : s.i.toNat + rangeCount x ≤ memSize := (State.rangeFault_eq_none.mp hok).resolve_left nofun
    rw [← State.firstRegisters_length s x] at hrange
    exact Memory.wf_writeBytes hwf hrange
  | _ => exact hwf

theorem toNat_add_two_le {a : Word} (h : a.toNat ≤ 0xFFE) : (a + 2).toNat ≤ 0x1000 := by bv_omega

theorem State.skipIf_pc_le {s : State} (h : s.pc.toNat ≤ 0xFFE) (c : Bool) : (s.skipIf c).pc.toNat ≤ 0x10FE := by
  rcases s.skipIf_pc_cases c with hpc | hpc <;> rw [hpc] <;> bv_omega

/-- A visible stack entry is popped when the stack is not empty. -/
theorem Bounded.topEntry_le {s : State} (hb : Bounded s) (h : s.sp.val ≠ 0) : s.topEntry.toNat ≤ 0x1000 :=
  hb.returns _ _ (by omega)

/-- From an address that was fetched from, no rule writes more than 0x10FE to `PC`, the largest target of BNNN (R14). -/
theorem nextPc_le {i : Instr} {s : State} (hb : Bounded s) (hpc : s.pc.toNat ≤ 0xFFE) (hok : faultOf i s = none) :
    (nextPc i s).toNat ≤ 0x10FE := by
  have hnext : (s.pc + 2).toNat ≤ 0x10FE := (toNat_add_two_le hpc).trans (by decide)
  cases i with
  | ret =>
    have hsp : s.sp.val ≠ 0 := fun h0 => nomatch (if_pos h0).symm.trans hok
    exact (hb.topEntry_le hsp).trans (by decide)
  | jp nnn | call nnn =>
    rw [nextPc, zextAddr_toNat]
    omega
  | jpV0 nnn =>
    rw [nextPc, zextAddr_add_zextByte]
    omega
  | seImm x nn | sneImm x nn | seReg x y low | sneReg x y low | skp x | sknp x => exact State.skipIf_pc_le hpc _
  | ldVxK x =>
    rw [nextPc]
    split
    · exact hb.counter
    · exact hnext
  | _ => exact hnext

/-- The visible entries stay return addresses: CALL pushes `PC + 2`, and RET hides one (R81, R83). -/
theorem returns_next {i : Instr} {s : State} (hb : Bounded s) (hpc : s.pc.toNat ≤ 0xFFE) (hok : faultOf i s = none)
    (k : Nat) (hk : k < 24) (hvisible : k < (nextSp i s).val) : ((nextStack i s)[k]'hk).toNat ≤ 0x1000 := by
  cases i with
  | call nnn =>
    have hle : k ≤ s.sp.val := Nat.le_of_lt_succ (hvisible.trans_le (Nat.mod_le _ _))
    simp only [nextStack, Vector.getElem_setIfInBounds]
    split
    · exact toNat_add_two_le hpc
    · exact hb.returns k hk (by omega)
  | ret => exact hb.returns k hk (hvisible.trans_le (Nat.sub_le _ _))
  | _ => exact hb.returns k hk hvisible

theorem Bounded.bounded_effect {i : Instr} {s : State} (hb : Bounded s) (hpc : s.pc.toNat ≤ 0xFFE)
    (hok : faultOf i s = none) : Bounded (effect i s) where
  memory := wf_nextMem hb.memory hok
  counter := nextPc_le hb hpc hok
  returns := returns_next hb hpc hok
  prescaler := hb.prescaler

/-! ### Each event keeps the invariant -/

/-- A cycle of a running core, from the state in which its inputs are sampled. -/
theorem Bounded.inv_runInstruction {s t : State} (hb : Bounded s) (hrun : s.fault = .running) (hinfo : s.faultInfo = 0)
    (h : runInstruction s = .next t) : Inv t := by
  rcases runInstruction_cases h with ⟨-, rfl⟩ | ⟨w, hfetch, ⟨-, rfl⟩ | ⟨i, u, -, hexec, rfl⟩⟩
  · exact hb.inv_raise (.addressOutOfRange s (badAddress_ge _ s.pc.isLt))
  · exact hb.inv_raise (.unknownInstruction s w)
  · rcases exec_cases hexec with ⟨k, info, hf, rfl⟩ | ⟨hok, rfl⟩
    · have hrec := faultOf_recorded hf
      rw [State.latchKeys_halted (s := s.raise k info) hrec.halts]
      exact hb.inv_raise hrec
    · have hb' := hb.bounded_effect (State.fetch_ok hfetch) hok
      rw [State.latchKeys_running (s := effect i s) hrun]
      exact Bounded.inv_of_running ⟨hb'.memory, hb'.counter, hb'.returns, hb'.prescaler⟩ hrun rfl hinfo

/-- The invariant holds of a core that has just been reset, whatever its parameters and the events to come (R190). -/
theorem inv_resetCore (s : State) : Inv s.resetCore :=
  have hpc : progBase.toNat ≤ 0x10FE := by decide
  Bounded.inv_of_running ⟨rfl, hpc, fun k _ hk => absurd hk k.not_lt_zero, Nat.succ_pos _⟩ rfl rfl rfl

/-- Taking an event off the list changes nothing that the invariant speaks of. -/
theorem Inv.takeEvent {s : State} (hinv : Inv s) : Inv s.takeEvent := { hinv with }

/-- A block that fits is written below `MEM_SIZE` (R192). -/
theorem Inv.setMem_writeBytes {s : State} (hinv : Inv s) {a : Nat} {bytes : List Byte}
    (hfit : a + bytes.length ≤ memSize) : Inv (s.setMem (s.mem.writeBytes a bytes)) :=
  { hinv with memory := Memory.wf_writeBytes hinv.memory hfit }

theorem Inv.load {s t : State} (hinv : Inv s) (hrun : s.fault = .running) {a : Nat} {bytes : List Byte}
    (h : load a bytes s = .next t) : Inv t := by
  rw [load_running hrun] at h
  split at h <;> cases h
  split
  · exact hinv.setMem_writeBytes ‹_›
  · exact hinv

/-- A pulse keeps `PRESC` below `PRESCALE_DIV`: it starts again at 0 or counts one further (R176). -/
theorem Inv.pulse {s : State} (hinv : Inv s) (hrun : s.fault = .running) : Inv (s.pulse Config.prescaleDiv) := by
  rw [State.pulse_running hrun]
  split
  · exact { hinv with prescaler := Nat.succ_pos _ }
  · have hlt := hinv.prescaler
    exact { hinv with prescaler := show s.presc + 1 < Config.prescaleDiv by omega }

theorem Inv.setClean {s : State} (hinv : Inv s) : Inv s.setClean := { hinv with }

theorem Bounded.sample {s : State} (hb : Bounded s) (k : Word) (r : Byte) : Bounded (s.sample k r) := { hb with }

/-- Each event keeps the invariant; a halted core is left as it is by all but `Reset` (R166). -/
theorem Inv.runEvent {e : Event} {s t : State} (hinv : Inv s) (h : runEvent e s = .next t) : Inv t := by
  by_cases hreset : e = .reset
  · subst hreset
    cases h
    exact inv_resetCore s
  by_cases hrun : s.fault = .running
  · cases e with
    | reset => exact absurd rfl hreset
    | load a bytes => exact hinv.load hrun h
    | cycle k r =>
      rw [runEvent_cycle hrun] at h
      exact (hinv.bounded.sample k r).inv_runInstruction hrun (hinv.noInfo hrun) h
    | timebasePulse =>
      cases h
      exact hinv.pulse hrun
    | dirtyClear =>
      cases h
      rw [State.clearDirty_running hrun]
      exact hinv.setClean
  · rw [runEvent_halted (s.halted_iff.mpr hrun) hreset] at h
    cases h
    exact hinv

/-- Settles O59: a step takes its event off the list, and each event keeps the invariant. -/
theorem everyStepKeepsTheInvariant : Obligations.EveryStepKeepsTheInvariant :=
  fun _ _ hinv hstep => hinv.takeEvent.runEvent hstep

end Sys2Proof.Machine
end

section
/-! PROOF. The word of an instruction and the list of bytes it is decoded from (R45, R60, R62, R64). -/

namespace Sys2Proof

/-! ### An instruction's own word decodes to it -/

/-- SYS is the meaning of every word with `OP` = 0 but those of CLS and RET (R65). -/
theorem decode0_nnn {nnn : Addr12} (hcls : nnn ≠ 0x0E0#12) (hret : nnn ≠ 0x0EE#12) :
    decode0 (0x0#4 ++ nnn) = .sys nnn := by
  have word_ne {w : Word} (h : nnn ≠ fieldNNN w) : 0x0#4 ++ nnn ≠ w := fun hw => h (by rw [← hw, fieldNNN_nnn])
  rw [decode0, if_neg (word_ne (w := 0x00E0#16) hcls), if_neg (word_ne (w := 0x00EE#16) hret), fieldNNN_nnn]

/-- `OP` = 0xF is the last case of the decoder (R66). -/
theorem decodeWord_of_fieldOp_F {w : Word} (h : fieldOp w = 0xF#4) : decodeWord w = decodeF w := by
  rw [decodeWord, h]
  rfl

/-- Decode reads back from the word of a well-formed instruction the constructor and every operand (R62, R64). -/
theorem decodeWord_encode {i : Instr} (hwf : i.wf = true) : decodeWord (encode i) = .ok i := by
  cases i with
  | sys nnn =>
    obtain ⟨hcls, hret⟩ : nnn ≠ 0x0E0#12 ∧ nnn ≠ 0x0EE#12 := by simpa [Instr.wf] using hwf
    simp only [encode, decodeWord, fieldOp_nnn, decode0_nnn hcls hret]
  | cls | ret => rfl
  | jp nnn | call nnn | ldI nnn | jpV0 nnn => simp only [encode, decodeWord, fieldOp_nnn, fieldNNN_nnn]
  | seImm x nn | sneImm x nn | ldImm x nn | addImm x nn | rnd x nn =>
    simp only [encode, decodeWord, fieldOp_xnn, fieldX_xnn, fieldNN_xnn]
  | seReg x y n | sneReg x y n | drw x y n =>
    simp only [encode, decodeWord, fieldOp_xyn, fieldX_xyn, fieldY_xyn, fieldN_xyn]
  | ldReg x y | or x y | and x y | xor x y | addReg x y | sub x y | shr x y | subn x y | shl x y =>
    simp only [encode, decodeWord, decode8, fieldOp_xyn, fieldX_xyn, fieldY_xyn, fieldN_xyn]
  | skp x | sknp x => simp only [encode, decodeWord, decodeE, fieldOp_xnn, fieldX_xnn, fieldNN_xnn]
  | ldVxDt x | ldVxK x | ldDtVx x | ldStVx x | addI x | ldF x | ldB x | ldStore x | ldLoad x =>
    simp only [encode, decodeWord_of_fieldOp_F, decodeF, fieldOp_xnn, fieldX_xnn, fieldNN_xnn]

/-! ### Two bytes, high byte first -/

/-- The first two bytes of a list decode to what their word decodes to, and the rest is left (R45, R60). -/
theorem decode_cons_cons {hi lo : Byte} {rest : List Byte} {i : Instr} (h : decodeWord (wordOfBytes hi lo) = .ok i) :
    decode (hi :: lo :: rest) = .ok (i, rest) := by
  rw [decode, h]

/-- The bytes of a well-formed instruction decode to it, whatever follows them. -/
theorem decode_encodeBytes {i : Instr} (hwf : i.wf = true) (rest : List Byte) :
    decode (encodeBytes i ++ rest) = .ok (i, rest) :=
  decode_cons_cons (by rw [wordOfBytes_bytes, decodeWord_encode hwf])

/-- Settles O6: both clauses about two bytes go by the word these make, the second because `encodeBytes` splits that of
`encode`; shorter lists are the decoder's own two cases. -/
theorem decodeTakesTwoBytesHighFirst : Obligations.DecodeTakesTwoBytesHighFirst :=
  ⟨fun _ _ _ _ h => decode_cons_cons h, fun _ rest hwf => decode_encodeBytes hwf rest, fun _ => rfl, rfl⟩

end Sys2Proof
end

section
/-! PROOF. Fetch out of range (R44, R168), and fetch from memory that an instruction has stored to (R51, R200). -/

namespace Sys2Proof.Machine

/-! ### Fetch out of range -/

/-- With `PC` above 0xFFE the cycle ends in step 2 (R44, R168). -/
theorem runInstruction_outOfRange {s : State} (h : 0xFFE < s.pc.toNat) :
    runInstruction s = .next (s.raise .addressOutOfRange (BitVec.ofNat 16 (max s.pc.toNat memSize))) := by
  rw [runInstruction, State.fetch_outOfRange h]
  rfl

/-- Settles O10: the recorded address is the larger of `PC` and 0x1000. -/
theorem fetchOutOfRangeFaults : Obligations.FetchOutOfRangeFaults := by
  intro s k r hrun hev
  have hstep (h : 0xFFE < s.pc.toNat) : step s =
      .next ((s.started k r).raise .addressOutOfRange (BitVec.ofNat 16 (max s.pc.toNat memSize))) :=
    (step_cycle hrun hev).trans (runInstruction_outOfRange (s := s.started k r) h)
  refine ⟨fun hpc => ?_, fun hpc => ?_⟩
  · rw [hstep (by omega), hpc]
    rfl
  · have hmax : max s.pc.toNat memSize = s.pc.toNat := Nat.max_eq_left hpc
    rw [hstep (by omega), hmax, BitVec.ofNat_toNat, BitVec.setWidth_eq]
    rfl

/-! ### What FX55 and FX33 store -/

/-- Byte `j` of a register range is register `j` (R124). -/
theorem State.firstRegisters_getElem_eq {s : State} {x : Nibble} {b : Nat → Byte}
    (hb : ∀ r : Nibble, r.toNat ≤ x.toNat → b r.toNat = s.getV r) (j : Nat)
    (hj : j < (s.firstRegisters x).length) : (s.firstRegisters x)[j] = b j := by
  have hjx : j ≤ x.toNat := Nat.le_of_lt_succ (hj.trans_eq (s.firstRegisters_length x))
  obtain ⟨r, rfl⟩ : ∃ r : Nibble, r.toNat = j := ⟨BitVec.ofNat 4 j, Nat.mod_eq_of_lt (hjx.trans_lt x.isLt)⟩
  rw [State.firstRegisters_getElem, hb r hjx]

/-- Three bytes with the values of the decimal digits are the digits (R123). -/
theorem bcdDigits_eq {v b0 b1 b2 : Byte} (h0 : b0.toNat = v.toNat / 100) (h1 : b1.toNat = v.toNat / 10 % 10)
    (h2 : b2.toNat = v.toNat % 10) : bcdDigits v = [b0, b1, b2] := by
  rw [bcdDigits, ← h0, ← h1, ← h2]
  simp only [BitVec.ofNat_toNat, BitVec.setWidth_eq]

theorem exec_ldStore_inRange {s : State} {x : Nibble} (h : s.i.toNat + rangeCount x ≤ memSize) :
    exec (.ldStore x) s = .next (effect (.ldStore x) s) := withRange_inRange (.inr h) _

theorem exec_ldB_inRange {s : State} {x : Nibble} (h : s.i.toNat + 3 ≤ memSize) :
    exec (.ldB x) s = .next (effect (.ldB x) s) := withRange_inRange (.inr h) _

/-- A read after a block of writes whose bytes are `b 0`, `b 1`, ... -/
theorem Memory.read_writeBytes_eq_ite {bs : List Byte} {m : Memory} {a : Nat} {b : Nat → Byte} (h : m.wf = true)
    (ha : a + bs.length ≤ memSize) (hb : ∀ j (hj : j < bs.length), bs[j] = b j) (c : Nat) :
    (m.writeBytes a bs).read c = if a ≤ c ∧ c < a + bs.length then b (c - a) else m.read c := by
  rw [Memory.read_writeBytes h ha]
  by_cases hc : a ≤ c ∧ c < a + bs.length
  · have hc' : a ≤ c ∧ c - a < bs.length := by omega
    rw [dif_pos hc', if_pos hc, hb]
  · rw [dif_neg (by omega), if_neg hc]

/-- Settles O41: the memory `u` fetches from is that of `s` with one block written at `I`, and either byte of the word is
a read of it. -/
theorem storedCodeIsFetched : Obligations.StoredCodeIsFetched := by
  intro i s t u n b hwf hstores hrange hexec hmem hpc
  obtain ⟨bs, rfl, hb, ht⟩ : ∃ bs : List Byte, n = bs.length ∧ (∀ j (hj : j < bs.length), bs[j] = b j) ∧
      t.mem = s.mem.writeBytes s.i.toNat bs := by
    rcases hstores with ⟨x, rfl, rfl, hb⟩ | ⟨x, rfl, rfl, h0, h1, h2⟩
    · cases (exec_ldStore_inRange hrange).symm.trans hexec
      exact ⟨s.firstRegisters x, (s.firstRegisters_length x).symm, State.firstRegisters_getElem_eq hb, rfl⟩
    · cases (exec_ldB_inRange hrange).symm.trans hexec
      have hdigits : bcdDigits (s.getV x) = [b 0, b 1, b 2] := bcdDigits_eq h0 h1 h2
      exact ⟨[b 0, b 1, b 2], rfl, fun | 0, _ | 1, _ | 2, _ => rfl, congrArg (s.mem.writeBytes s.i.toNat) hdigits⟩
  have hread := Memory.read_writeBytes_eq_ite hwf hrange hb
  rw [← ht, ← hmem] at hread
  exact ⟨_, _, State.fetch_inRange hpc, hread _, hread _⟩

end Sys2Proof.Machine
end

section
/-! PROOF. Decode and encode are inverse, and decode selects the row of the opcode table that a word matches (R61 to
R67). -/

namespace Sys2Proof

/-! ### From an instruction to its word and back -/

/-- Settles O1: decode reads back the constructor and every operand, by `decodeWord_encode`. -/
theorem decodeOfEncodeIsIdentity : Obligations.DecodeOfEncodeIsIdentity := fun _ => decodeWord_encode

theorem decodeWord_of_encode {i : Instr} {w : Word} (hw : encode i = w) (hwf : i.wf = true) :
    decodeWord w = .ok i := hw ▸ decodeWord_encode hwf

@[simp] theorem Instr.wf_sys {nnn : Addr12} :
    (Instr.sys nnn).wf = true ↔ nnn ≠ 0x0E0#12 ∧ nnn ≠ 0x0EE#12 := by simp [Instr.wf]

/-- Settles O5: each pattern is the word of its instruction, which is well formed. -/
theorem everyPatternDecodesToItsRow : Obligations.EveryPatternDecodesToItsRow := by
  refine ⟨fun nnn => ⟨fun hcls hret => decodeWord_of_encode rfl (Instr.wf_sys.mpr ⟨hcls, hret⟩), ?_⟩,
    fun x nn => ?_, fun x y n => ?_, fun x => ?_⟩
  all_goals and_intros
  all_goals exact decodeWord_of_encode rfl rfl

/-- Settles O7: the decoder evaluated on the words of the test vectors. -/
theorem specExampleWordsDecode : Obligations.SpecExampleWordsDecode := by
  unfold Obligations.SpecExampleWordsDecode
  decide

/-- Only the words of CLS and RET are words of an ill-formed instruction too (R65). -/
theorem wf_of_encode_ne {i : Instr} (hcls : encode i ≠ 0x00E0#16) (hret : encode i ≠ 0x00EE#16) : i.wf = true := by
  cases i with
  | sys nnn => exact Instr.wf_sys.mpr ⟨fun h => hcls (h ▸ rfl), fun h => hret (h ▸ rfl)⟩
  | _ => rfl

/-! ### What the decoder answers -/

/-- The words that R67 lists. -/
def MatchesNoRow (w : Word) : Prop :=
  (fieldOp w = 0x8#4 ∧ fieldN w ∈ [0x8#4, 0x9#4, 0xA#4, 0xB#4, 0xC#4, 0xD#4, 0xF#4]) ∨
  (fieldOp w = 0xE#4 ∧ fieldNN w ∉ [0x9E#8, 0xA1#8]) ∨
  (fieldOp w = 0xF#4 ∧
    fieldNN w ∉ [0x07#8, 0x0A#8, 0x15#8, 0x18#8, 0x1E#8, 0x29#8, 0x33#8, 0x55#8, 0x65#8])

/-- `d` is a right answer for `w`: the well-formed instruction whose word is `w`, unless `w` is listed as unknown. -/
def IsDecodingOf (w : Word) (d : Except DecodeReject Instr) : Prop :=
  (∃ i : Instr, d = .ok i ∧ i.wf = true ∧ encode i = w ∧ ¬ MatchesNoRow w) ∨
  (d = .error (.unknownInstruction w) ∧ MatchesNoRow w)

theorem IsDecodingOf.ok {w : Word} {i : Instr} (hwf : i.wf = true) (henc : encode i = w) (hrow : ¬ MatchesNoRow w) :
    IsDecodingOf w (.ok i) := .inl ⟨i, rfl, hwf, henc, hrow⟩

theorem isDecodingOf_decode0 {w : Word} (hop : fieldOp w = 0x0#4) : IsDecodingOf w (.ok (decode0 w)) := by
  have hrow : ¬ MatchesNoRow w := by simp [MatchesNoRow, hop]
  rw [decode0]
  split_ifs with hcls hret
  · exact .ok rfl hcls.symm hrow
  · exact .ok rfl hret.symm hrow
  · have henc : encode (.sys (fieldNNN w)) = w := by simpa [encode, hop] using word_of_nnn w
    exact .ok (wf_of_encode_ne (henc.trans_ne hcls) (henc.trans_ne hret)) henc hrow

theorem isDecodingOf_decode8 {w : Word} (hop : fieldOp w = 0x8#4) : IsDecodingOf w (decode8 w) := by
  rw [decode8]
  split
  case h_10 =>
    -- of the 16 nibbles, those that are none of the nine ALU functions
    refine .inr ⟨rfl, .inl ⟨hop, ?_⟩⟩
    generalize fieldN w = n at *
    decide +revert
  all_goals
    rename_i hn
    exact .ok rfl (by simpa [encode, hop, hn] using word_of_xyn w) (by simp [MatchesNoRow, hop, hn])

theorem isDecodingOf_decodeE {w : Word} (hop : fieldOp w = 0xE#4) : IsDecodingOf w (decodeE w) := by
  rw [decodeE]
  split
  case h_3 => exact .inr ⟨rfl, .inr (.inl ⟨hop, by simp_all⟩)⟩
  all_goals
    rename_i hnn
    exact .ok rfl (by simpa [encode, hop, hnn] using word_of_xnn w) (by simp [MatchesNoRow, hop, hnn])

theorem isDecodingOf_decodeF {w : Word} (hop : fieldOp w = 0xF#4) : IsDecodingOf w (decodeF w) := by
  rw [decodeF]
  split
  case h_10 => exact .inr ⟨rfl, .inr (.inr ⟨hop, by simp_all⟩)⟩
  all_goals
    rename_i hnn
    exact .ok rfl (by simpa [encode, hop, hnn] using word_of_xnn w) (by simp [MatchesNoRow, hop, hnn])

theorem isDecodingOf_decodeWord (w : Word) : IsDecodingOf w (decodeWord w) := by
  rw [decodeWord]
  split
  case h_1 hop => exact isDecodingOf_decode0 hop
  case h_9 hop => exact isDecodingOf_decode8 hop
  case h_15 hop => exact isDecodingOf_decodeE hop
  case h_16 =>
    refine isDecodingOf_decodeF ?_
    generalize fieldOp w = op at *
    decide +revert
  -- formats NNN, XNN and XYN
  case h_2 hop | h_3 hop | h_11 hop | h_12 hop =>
    exact .ok rfl (by simpa [encode, hop] using word_of_nnn w) (by simp [MatchesNoRow, hop])
  case h_4 hop | h_5 hop | h_7 hop | h_8 hop | h_13 hop =>
    exact .ok rfl (by simpa [encode, hop] using word_of_xnn w) (by simp [MatchesNoRow, hop])
  case h_6 hop | h_10 hop | h_14 hop =>
    exact .ok rfl (by simpa [encode, hop] using word_of_xyn w) (by simp [MatchesNoRow, hop])

/-- Settles O2: of the decoder's two kinds of answer, an instruction is of the first. -/
theorem encodeOfDecodeIsTheWord : Obligations.EncodeOfDecodeIsTheWord := by
  intro w i hdec
  obtain ⟨j, hj, hwf, henc, -⟩ | ⟨herr, -⟩ := isDecodingOf_decodeWord w
  · cases hj.symm.trans hdec
    exact ⟨hwf, henc⟩
  · cases herr.symm.trans hdec

/-- Settles O4: the decoder's two kinds of answer exclude each other, and so do the words that get them. -/
theorem unknownWordsAreThoseListed : Obligations.UnknownWordsAreThoseListed := by
  intro w
  obtain ⟨i, hi, -, -, hrow⟩ | ⟨herr, hrow⟩ := isDecodingOf_decodeWord w
  · exact ⟨.inl ⟨i, hi⟩, fun herr => (nomatch hi.symm.trans herr), fun h => absurd h hrow⟩
  · exact ⟨.inr herr, fun _ => hrow, fun _ => herr⟩

/-! ### The words of a row -/

open Laws.OpcodeRow in
/-- The word of an instruction matches its row (R64). -/
theorem encode_matches_opcodeRow : ∀ i : Instr, encode i &&& (opcodeRow i).1 = (opcodeRow i).2
  | .sys nnn => sys nnn | .cls => cls | .ret => ret | .jp nnn => jp nnn | .call nnn => call nnn
  | .seImm x nn => seImm x nn | .sneImm x nn => sneImm x nn | .seReg x y n => seReg x y n
  | .ldImm x nn => ldImm x nn | .addImm x nn => addImm x nn | .ldReg x y => ldReg x y | .or x y => or x y
  | .and x y => and x y | .xor x y => xor x y | .addReg x y => addReg x y | .sub x y => sub x y
  | .shr x y => shr x y | .subn x y => subn x y | .shl x y => shl x y | .sneReg x y n => sneReg x y n
  | .ldI nnn => ldI nnn | .jpV0 nnn => jpV0 nnn | .rnd x nn => rnd x nn | .drw x y n => drw x y n
  | .skp x => skp x | .sknp x => sknp x | .ldVxDt x => ldVxDt x | .ldVxK x => ldVxK x | .ldDtVx x => ldDtVx x
  | .ldStVx x => ldStVx x | .addI x => addI x | .ldF x => ldF x | .ldB x => ldB x | .ldStore x => ldStore x
  | .ldLoad x => ldLoad x

/-- `w` is the word of an instruction of the same row as `j`. -/
def IsWordOfRow (w : Word) (j : Instr) : Prop := ∃ i, opcodeRow i = opcodeRow j ∧ encode i = w

/-! The mask of a row fixes the fields that tell its instructions from others (R62); the operands are read off the
word. -/

section
variable {w : Word} {op : Nibble}

theorem fieldOp_eq_of_maskOp (h : w &&& 0xF000#16 = op ++ 0x000#12) : fieldOp w = op := by
  rw [and_maskOp] at h
  simpa using congrArg fieldOp h

theorem isWordOfRow_nnn {c : Addr12 → Instr} {nnn : Addr12} (hrow : ∀ a, opcodeRow (c a) = opcodeRow (c nnn))
    (henc : ∀ a, encode (c a) = op ++ a) (h : w &&& 0xF000#16 = op ++ 0x000#12) : IsWordOfRow w (c nnn) :=
  ⟨c (fieldNNN w), hrow _, by rw [henc, ← fieldOp_eq_of_maskOp h, word_of_nnn]⟩

theorem isWordOfRow_xnn {c : Nibble → Byte → Instr} {x : Nibble} {nn : Byte}
    (hrow : ∀ a b, opcodeRow (c a b) = opcodeRow (c x nn)) (henc : ∀ a b, encode (c a b) = op ++ a ++ b)
    (h : w &&& 0xF000#16 = op ++ 0x000#12) : IsWordOfRow w (c x nn) :=
  ⟨c (fieldX w) (fieldNN w), hrow _ _, by rw [henc, ← fieldOp_eq_of_maskOp h, word_of_xnn]⟩

theorem isWordOfRow_xyn {c : Nibble → Nibble → Nibble → Instr} {x y n : Nibble}
    (hrow : ∀ a b d, opcodeRow (c a b d) = opcodeRow (c x y n))
    (henc : ∀ a b d, encode (c a b d) = op ++ a ++ b ++ d)
    (h : w &&& 0xF000#16 = op ++ 0x000#12) : IsWordOfRow w (c x y n) :=
  ⟨c (fieldX w) (fieldY w) (fieldN w), hrow _ _ _, by rw [henc, ← fieldOp_eq_of_maskOp h, word_of_xyn]⟩

theorem isWordOfRow_xy {c : Nibble → Nibble → Instr} {x y n : Nibble}
    (hrow : ∀ a b, opcodeRow (c a b) = opcodeRow (c x y)) (henc : ∀ a b, encode (c a b) = op ++ a ++ b ++ n)
    (h : w &&& 0xF00F#16 = op ++ 0x0#4 ++ 0x0#4 ++ n) : IsWordOfRow w (c x y) := by
  rw [and_maskOpN] at h
  have hop : fieldOp w = op := by simpa using congrArg fieldOp h
  have hn : fieldN w = n := by simpa using congrArg fieldN h
  exact ⟨c (fieldX w) (fieldY w), hrow _ _, by rw [henc, ← hop, ← hn, word_of_xyn]⟩

theorem isWordOfRow_x {c : Nibble → Instr} {x : Nibble} {nn : Byte} (hrow : ∀ a, opcodeRow (c a) = opcodeRow (c x))
    (henc : ∀ a, encode (c a) = op ++ a ++ nn) (h : w &&& 0xF0FF#16 = op ++ 0x0#4 ++ nn) : IsWordOfRow w (c x) := by
  rw [and_maskOpNN] at h
  have hop : fieldOp w = op := by simpa using congrArg fieldOp h
  have hnn : fieldNN w = nn := by simpa using congrArg fieldNN h
  exact ⟨c (fieldX w), hrow _, by rw [henc, ← hop, ← hnn, word_of_xnn]⟩

end

/-- A word that matches a row is the word of an instruction of that row (R64). -/
theorem isWordOfRow_of_matches {w : Word} {j : Instr} (h : w &&& (opcodeRow j).1 = (opcodeRow j).2) :
    IsWordOfRow w j := by
  cases j with
  | cls | ret => exact ⟨_, rfl, h.symm.trans (BitVec.and_allOnes)⟩
  | sys nnn | jp nnn | call nnn | ldI nnn | jpV0 nnn => exact isWordOfRow_nnn (fun _ => rfl) (fun _ => rfl) h
  | seImm x nn | sneImm x nn | ldImm x nn | addImm x nn | rnd x nn =>
    exact isWordOfRow_xnn (fun _ _ => rfl) (fun _ _ => rfl) h
  | seReg x y n | sneReg x y n | drw x y n => exact isWordOfRow_xyn (fun _ _ _ => rfl) (fun _ _ _ => rfl) h
  | ldReg x y | or x y | and x y | xor x y | addReg x y | sub x y | shr x y | subn x y | shl x y =>
    exact isWordOfRow_xy (fun _ _ => rfl) (fun _ _ => rfl) h
  | skp x | sknp x | ldVxDt x | ldVxK x | ldDtVx x | ldStVx x | addI x | ldF x | ldB x | ldStore x | ldLoad x =>
    exact isWordOfRow_x (fun _ => rfl) (fun _ => rfl) h

/-- Settles O3: a word matches the rows whose instructions it is the word of, and decodes to the well-formed one. -/
theorem decodeSelectsTheMatchingRow : Obligations.DecodeSelectsTheMatchingRow := by
  refine ⟨fun w i hdec => ?_, fun w j hmatch => ?_⟩
  · obtain ⟨-, rfl⟩ := encodeOfDecodeIsTheWord w i hdec
    exact encode_matches_opcodeRow i
  · by_cases hcls : w = 0x00E0#16
    · exact ⟨.cls, hcls ▸ rfl, .inl ⟨hcls, rfl⟩⟩
    by_cases hret : w = 0x00EE#16
    · exact ⟨.ret, hret ▸ rfl, .inr (.inl ⟨hret, rfl⟩)⟩
    obtain ⟨i, hrow, rfl⟩ := isWordOfRow_of_matches hmatch
    exact ⟨i, decodeWord_encode (wf_of_encode_ne hcls hret), .inr (.inr ⟨hcls, hret, hrow⟩)⟩

end Sys2Proof
end

section
/-! PROOF. Control flow (40_control_flow.md): SYS, the jumps, CALL and RET, the register skips (R80 to R88). -/

namespace Sys2Proof.Machine

/-- An instruction with a fault raises it and does nothing else (R165). -/
theorem raises_of_faultOf {i : Instr} {s : State} {k : FaultKind} {info : Word} (h : faultOf i s = some (k, info)) :
    Raises i s k info :=
  (exec_eq i s).trans (congrArg _ (answer_of_fault h))

theorem exec_of_noFault {i : Instr} {s : State} (h : faultOf i s = none) : exec i s = .next (effect i s) :=
  (exec_eq i s).trans (congrArg _ (answer_of_noFault h))

/-! ### SYS and the jumps (R80, R82, R88) -/

theorem zextAddr_eq_addr16 (nnn : Addr12) : zextAddr nnn = addr16 nnn.toNat := (BitVec.ofNat_toNat 16 nnn).symm

theorem zextAddr_add_zextByte_eq_addr16 (nnn : Addr12) (b : Byte) :
    zextAddr nnn + zextByte b = addr16 (nnn.toNat + b.toNat) := by
  rw [← zextAddr_add_zextByte, addr16, BitVec.ofNat_toNat, BitVec.setWidth_eq]

/-- Settles O23: `SYS_IS_NOP` decides whether SYS has a fault, and without one its effect is that of advancing. -/
theorem sysRaisesOrAdvances : Obligations.SysRaisesOrAdvances := by
  refine fun s nnn => ⟨fun hfatal => ?_, fun hnop => ?_⟩
  · rw [← zextAddr_eq_addr16]
    exact raises_of_faultOf (if_neg (Bool.eq_false_iff.mp hfatal))
  · exact exec_of_noFault (if_pos hnop)

/-- Settles O24: neither jump has a fault, and its effect is on `PC` alone. -/
theorem jumpsGoToTheirTarget : Obligations.JumpsGoToTheirTarget := by
  intro s nnn
  rw [← zextAddr_eq_addr16, ← zextAddr_add_zextByte_eq_addr16]
  exact ⟨exec_of_noFault rfl, exec_of_noFault rfl⟩

/-! ### CALL and RET (R81, R83) -/

/-- The state after a CALL that finds room on the stack (R20, R83). -/
def State.called (s : State) (nnn : Addr12) (h : s.sp.val < 24) : State :=
  { s with
    pc := addr16 nnn.toNat
    stack := s.stack.set s.sp.val (s.pc + 2) h
    sp := ⟨s.sp.val + 1, Nat.succ_lt_succ h⟩ }

/-- The state after a RET that pops entry `k` (R21, R81). -/
def State.returned (s : State) (k : Nat) (h : k < 24) : State :=
  { s with pc := s.stack[k], sp := ⟨k, Nat.lt_succ_of_lt h⟩ }

theorem exec_call_eq_called {s : State} (h : s.sp.val < 24) (nnn : Addr12) :
    exec (.call nnn) s = .next (s.called nnn h) := by
  rcases execCall_cases (exec_eq (.call nnn) s) with ⟨hfull, -⟩ | ⟨_, hanswer⟩
  · omega
  · rw [exec_eq, hanswer, zextAddr_eq_addr16, State.called]

theorem exec_ret_eq_returned {s : State} {k : Nat} (h : k < 24) (hsp : s.sp.val = k + 1) :
    exec .ret s = .next (s.returned k h) := by
  rcases execRet_cases (exec_eq .ret s) with ⟨hempty, -⟩ | ⟨j, _, hj, hanswer⟩
  · omega
  · obtain rfl : j = k := Nat.succ.inj (hj.symm.trans hsp)
    rw [exec_eq, hanswer, State.returned]

theorem State.called_stack_getElem {s : State} (h : s.sp.val < 24) (nnn : Addr12) (k : Nat) (hk : k < 24) :
    (s.called nnn h).stack[k] = if k = s.sp.val then s.pc + 2 else s.stack[k] := by
  simp only [State.called, Vector.getElem_set, eq_comm]

/-- Returning from a call leaves only the pushed entry behind, in the slot that is free again. -/
theorem State.returned_called {s : State} (h : s.sp.val < 24) (nnn : Addr12) :
    (s.called nnn h).returned s.sp.val h = { s with pc := s.pc + 2, stack := (s.called nnn h).stack } := by
  rw [State.returned, State.called_stack_getElem, if_pos rfl]
  rfl

/-- Settles O25: CALL has room, and pushes, or else it has a fault. -/
theorem callPushesTheReturnAddress : Obligations.CallPushesTheReturnAddress := by
  refine fun s nnn => ⟨fun hroom => ?_, fun hfull => ?_⟩
  · exact ⟨s.called nnn hroom, exec_call_eq_called hroom nnn, rfl, rfl, rfl, State.called_stack_getElem hroom nnn⟩
  · exact raises_of_faultOf (if_pos hfull)

/-- Settles O26: RET has an entry to pop, or else it has a fault. -/
theorem retPopsTheReturnAddress : Obligations.RetPopsTheReturnAddress := by
  refine fun s => ⟨fun k hk hsp => ?_, fun hempty => ?_⟩
  · exact ⟨s.returned k hk, exec_ret_eq_returned hk hsp, rfl, rfl⟩
  · exact raises_of_faultOf (if_pos hempty)

/-- Settles O27: RET pops the entry that CALL has just pushed, which lies above those visible before. -/
theorem returnUndoesCall : Obligations.ReturnUndoesCall := by
  intro s nnn hroom
  refine ⟨s.called nnn hroom, (s.called nnn hroom).returned s.sp.val hroom, exec_call_eq_called hroom nnn,
    exec_ret_eq_returned hroom rfl, State.returned_called hroom nnn, fun k hk hvisible => ?_⟩
  exact (State.called_stack_getElem hroom nnn k hk).trans (if_neg hvisible.ne)

/-! ### The register skips (R84 to R87) -/

/-- A skip on the test `c` of the condition `P`. -/
theorem State.skipIf_eq_ite {c : Bool} {P : Prop} [Decidable P] (s : State) (h : c = true ↔ P) :
    s.skipIf c = { s with pc := if P then s.pc + 4 else s.pc + 2 } := by
  simp only [State.skipIf, h]

/-- Settles O28: each skip is `skipIf` on the test of its condition. -/
theorem skipsAdvanceByFourOrTwo : Obligations.SkipsAdvanceByFourOrTwo := by
  intro s x y low nn
  refine ⟨?_, ?_, ?_, ?_⟩
  · exact congrArg Host.Outcome.next (s.skipIf_eq_ite beq_iff_eq)
  · exact congrArg Host.Outcome.next (s.skipIf_eq_ite bne_iff_ne)
  · exact congrArg Host.Outcome.next (s.skipIf_eq_ite beq_iff_eq)
  · exact congrArg Host.Outcome.next (s.skipIf_eq_ite bne_iff_ne)

end Sys2Proof.Machine
end

section
/-! PROOF. Register loads, arithmetic, logic, RND (41_arithmetic_logic.md, R100 to R113): the values of the ALU's
operations, then one lemma for each of the three ways a result is written. -/

namespace Sys2Proof.Machine

/-! ### Values (R106 to R112) -/

theorem addBytes_toNat (a b : Byte) : (addBytes a b).toNat = (a.toNat + b.toNat) % 256 := BitVec.toNat_ofNat ..

theorem subBytes_toNat (a b : Byte) : ((subBytes a b).toNat : Int) = ((a.toNat : Int) - b.toNat) % 256 := by
  have hsub : (subBytes a b).toNat = (a.toNat + 256 - b.toNat) % 256 := BitVec.toNat_ofNat ..
  omega

theorem flagByte_decide (p : Prop) [Decidable p] : flagByte (decide p) = if p then 1 else 0 := by
  simp only [flagByte, decide_eq_true_eq]

theorem shiftRight_one_toNat (a : Byte) : (a >>> 1).toNat = a.toNat / 2 := by
  rw [BitVec.toNat_ushiftRight, Nat.shiftRight_eq_div_pow]

theorem shiftLeft_one_toNat (a : Byte) : (a <<< 1).toNat = 2 * a.toNat % 256 := by
  rw [BitVec.toNat_shiftLeft, Nat.shiftLeft_eq, Nat.mul_comm]

theorem flagByte_shiftedOutRight_toNat (a : Byte) : (flagByte (shiftedOutRight a)).toNat = a.toNat % 2 := by
  rw [flagByte_toNat, shiftedOutRight, BitVec.getLsbD, Nat.toNat_testBit, Nat.pow_zero, Nat.div_one]

theorem flagByte_shiftedOutLeft_toNat (a : Byte) : (flagByte (shiftedOutLeft a)).toNat = a.toNat / 128 := by
  rw [flagByte_toNat, shiftedOutLeft, BitVec.getLsbD, Nat.toNat_testBit]
  omega

/-! ### A plain result (R100 to R102, R111) -/

/-- The answer of an instruction that writes one register and goes on. -/
theorem exec_writes_register {i : Instr} {s : State} {x : Nibble} {b : Byte}
    (hexec : exec i s = .next (s.setV x b).advance) :
    ∃ t, exec i s = .next t ∧ t = { s with v := t.v, pc := s.pc + 2 } ∧
      ∀ r, t.getV r = if r = x then b else s.getV r :=
  ⟨_, hexec, rfl, fun r => s.getV_setV x r b⟩

/-- Settles O29: both loads write one register. -/
theorem plainLoadsWriteOneRegister : Obligations.PlainLoadsWriteOneRegister :=
  fun _ _ _ _ => ⟨exec_writes_register rfl, exec_writes_register rfl⟩

/-- Settles O30: the one register written gets the wrapped sum. -/
theorem addImmediateWrapsWithoutCarry : Obligations.AddImmediateWrapsWithoutCarry := by
  intro s x nn
  obtain ⟨t, hexec, hframe, hregs⟩ := exec_writes_register (i := .addImm x nn) (s := s) rfl
  refine ⟨t, hexec, hframe, ?_, fun r hr => (hregs r).trans (if_neg hr)⟩
  rw [hregs, if_pos rfl, addBytes_toNat]

/-- Settles O35: the one register written gets the masked byte. -/
theorem rndMasksTheRandomByte : Obligations.RndMasksTheRandomByte := by
  intro s x nn
  obtain ⟨t, hexec, hframe, hregs⟩ := exec_writes_register (i := .rnd x nn) (s := s) rfl
  refine ⟨t, hexec, hframe, fun j _ => ?_, fun r hr => (hregs r).trans (if_neg hr)⟩
  rw [hregs, if_pos rfl, BitVec.getLsbD_and]

/-! ### A logical result (R103 to R105) -/

/-- The answer of an instruction that writes a logical result and goes on; VF is out of `LOGIC_RESETS_VF`'s reach when
the register read is another or the parameter is off. -/
theorem exec_writes_logic {i : Instr} {s : State} {x : Nibble} {b : Byte}
    (hexec : exec i s = .next (s.setLogic x b).advance) :
    ∃ t, exec i s = .next t ∧ t = { s with v := t.v, pc := s.pc + 2 } ∧
      (s.params.logicResetsVf = true → t.getV 0xF#4 = 0) ∧
      ∀ r, (r ≠ 0xF#4 ∨ s.params.logicResetsVf = false) → t.getV r = if r = x then b else s.getV r := by
  refine ⟨_, hexec, ?_, fun hreset => ?_, fun r hkeep => ?_⟩
  · rw [State.setLogic_eq]
    rfl
  · rw [State.getV_advance, State.getV_setLogic, if_pos ⟨hreset, rfl⟩]
  · have hcleared : ¬(s.params.logicResetsVf = true ∧ r = 0xF#4) := by
      rintro ⟨hreset, hr⟩
      exact hkeep.elim (· hr) (by simp [hreset])
    rw [State.getV_advance, State.getV_setLogic, if_neg hcleared]

/-- Settles O31: the three differ in the logical result alone, which has the bits of `f`. -/
theorem logicCombinesBits : Obligations.LogicCombinesBits := by
  intro s x y i f hi
  obtain ⟨b, hbits, hwrite⟩ : ∃ b : Byte,
      (∀ j, b.getLsbD j = f ((s.getV x).getLsbD j) ((s.getV y).getLsbD j)) ∧
      exec i s = .next (s.setLogic x b).advance := by
    rcases hi with ⟨rfl, rfl⟩ | ⟨rfl, rfl⟩ | ⟨rfl, rfl⟩
    · exact ⟨_, fun _ => BitVec.getLsbD_or, rfl⟩
    · exact ⟨_, fun _ => BitVec.getLsbD_and, rfl⟩
    · exact ⟨_, fun _ => BitVec.getLsbD_xor, rfl⟩
  obtain ⟨t, hexec, hframe, hreset, hregs⟩ := exec_writes_logic hwrite
  refine ⟨t, hexec, hframe, hreset, fun hkeep j _ => ?_, fun r hr hkeep => (hregs r hkeep).trans (if_neg hr)⟩
  rw [hregs x hkeep, if_pos rfl, hbits]

/-! ### A result and a flag (R106 to R110, R113) -/

/-- The answer of an instruction that writes a result, then a flag, and goes on (R113). -/
theorem exec_writes_resultFlag {i : Instr} {s : State} {x : Nibble} {b : Byte} {c : Bool}
    (hexec : exec i s = .next (s.setResultFlag x b c).advance) :
    ∃ t, exec i s = .next t ∧ t = { s with v := t.v, pc := s.pc + 2 } ∧
      t.getV 0xF#4 = flagByte c ∧ (x ≠ 0xF#4 → t.getV x = b) ∧
      ∀ r, r ≠ x → r ≠ 0xF#4 → t.getV r = s.getV r := by
  have hregs (r : Nibble) := s.getV_setResultFlag x r b c
  refine ⟨_, hexec, rfl, (hregs _).trans (if_pos rfl), fun hx => ?_, fun r hrx hrf => ?_⟩
  · exact (hregs x).trans ((if_neg hx).trans (if_pos rfl))
  · exact (hregs r).trans ((if_neg hrf).trans (if_neg hrx))

/-- Settles O32: the result is the wrapped sum and the flag the carry. -/
theorem addSetsCarry : Obligations.AddSetsCarry := by
  intro s x y
  obtain ⟨t, hexec, hframe, hflag, hresult, hrest⟩ := exec_writes_resultFlag (i := .addReg x y) (s := s) rfl
  exact ⟨t, hexec, hframe, hflag.trans (flagByte_decide _), fun hx => hresult hx ▸ addBytes_toNat _ _, hrest⟩

/-- Settles O33: with the operands in either order, the result is the wrapped difference and the flag tells that no
borrow occurs. -/
theorem subtractionsSetNotBorrow : Obligations.SubtractionsSetNotBorrow := by
  intro s x y i a b hi
  have hwrite : exec i s = .next (s.setResultFlag x (subBytes a b) (noBorrow a b)).advance := by
    rcases hi with ⟨rfl, rfl, rfl⟩ | ⟨rfl, rfl, rfl⟩ <;> rfl
  obtain ⟨t, hexec, hframe, hflag, hresult, hrest⟩ := exec_writes_resultFlag hwrite
  exact ⟨t, hexec, hframe, hflag.trans (flagByte_decide _), fun hx => hresult hx ▸ subBytes_toNat a b, hrest⟩

/-- Settles O34: either shift writes its operand shifted by one, and the bit shifted out as the flag. -/
theorem shiftsMoveTheBitOut : Obligations.ShiftsMoveTheBitOut := by
  intro s x y a ha
  obtain rfl : a = s.shiftOperand x y := ha
  constructor
  · obtain ⟨t, hexec, hframe, hflag, hresult, hrest⟩ := exec_writes_resultFlag (i := .shr x y) (s := s) rfl
    exact ⟨t, hexec, hframe, hflag ▸ flagByte_shiftedOutRight_toNat _, fun hx => hresult hx ▸ shiftRight_one_toNat _, hrest⟩
  · obtain ⟨t, hexec, hframe, hflag, hresult, hrest⟩ := exec_writes_resultFlag (i := .shl x y) (s := s) rfl
    exact ⟨t, hexec, hframe, hflag ▸ flagByte_shiftedOutLeft_toNat _, fun hx => hresult hx ▸ shiftLeft_one_toNat _, hrest⟩

end Sys2Proof.Machine
end

section
/-! PROOF. The index register and memory (42_memory_index.md, R120 to R126): the three writers of `I`, the fault of an
access out of range, then FX33, FX55 and FX65 in range. -/

namespace Sys2Proof.Machine

/-! ### The writers of `I` (R120 to R122) -/

theorem add_zextByte_eq_addr16 (a : Word) (b : Byte) : a + zextByte b = addr16 ((a.toNat + b.toNat) % 65536) := by
  refine BitVec.eq_of_toNat_eq ?_
  rw [BitVec.toNat_add, zextByte_toNat, addr16, BitVec.toNat_ofNat, Nat.mod_mod]

theorem glyphAddress_eq_addr16 (b : Byte) : glyphAddress b = addr16 (5 * (b.toNat % 16)) := by
  rw [glyphAddress, lowNibble_toNat, fontBase, fontStride, Nat.zero_add, addr16]

/-- Settles O36: none of the three has a fault, and each has an effect on `I` and `PC` alone. -/
theorem indexInstructionsSetIndex : Obligations.IndexInstructionsSetIndex := by
  intro s x nnn
  rw [← zextAddr_eq_addr16, ← add_zextByte_eq_addr16, ← glyphAddress_eq_addr16]
  exact ⟨exec_of_noFault rfl, exec_of_noFault rfl, exec_of_noFault rfl⟩

/-! ### Out of range (R43, R126) -/

/-- An instruction guarded by the `n` bytes from `I` raises the lowest of their addresses that is out of range. -/
theorem raises_addressOutOfRange {i : Instr} {s : State} {n : Nat} (hguard : faultOf i s = s.rangeFault n)
    (hn : n ≠ 0) (h : memSize < s.i.toNat + n) :
    Raises i s .addressOutOfRange (addr16 (max s.i.toNat 0x1000)) := by
  refine raises_of_faultOf (hguard.trans ?_)
  rw [State.rangeFault, rangeError_some hn h]
  rfl

/-! ### FX33 (R123) -/

/-- No digit is cut off by the byte that holds it. -/
theorem bcdDigits_map_toNat (b : Byte) :
    (bcdDigits b).map BitVec.toNat = [b.toNat / 100, b.toNat / 10 % 10, b.toNat % 10] := by
  have hbyte : b.toNat < 256 := b.isLt
  have h0 : b.toNat / 100 < 256 := by omega
  have h1 : b.toNat / 10 % 10 < 256 := by omega
  have h2 : b.toNat % 10 < 256 := by omega
  simp only [bcdDigits, List.map_cons, List.map_nil, BitVec.toNat_ofNat, Nat.mod_eq_of_lt, h0, h1, h2]

/-- Settles O37: in range, the memory of `s` is written with the block of digits at `I`. -/
theorem bcdStoresThreeDigits : Obligations.BcdStoresThreeDigits := by
  intro s x hwf
  refine ⟨fun h => ?_, fun h => raises_addressOutOfRange rfl (Nat.succ_ne_zero 2) (Nat.succ_lt_succ h)⟩
  have hfit : s.i.toNat + (bcdDigits (s.getV x)).length ≤ memSize := Nat.succ_le_succ h
  have hdigit (j : Nat) (hj : j < 3) : ((nextMem (.ldB x) s).read (s.i.toNat + j)).toNat =
      [(s.getV x).toNat / 100, (s.getV x).toNat / 10 % 10, (s.getV x).toNat % 10][j] :=
    calc ((nextMem (.ldB x) s).read (s.i.toNat + j)).toNat
      _ = ((bcdDigits (s.getV x))[j]'hj).toNat := congrArg BitVec.toNat (Memory.read_writeBytes_inside hwf hfit hj)
      _ = ((bcdDigits (s.getV x)).map BitVec.toNat)[j]'hj := (List.getElem_map BitVec.toNat).symm
      _ = _ := List.getElem_of_eq (bcdDigits_map_toNat (s.getV x)) hj
  refine ⟨_, exec_ldB_inRange hfit, rfl, hdigit 0 (by decide), hdigit 1 (by decide),
    hdigit 2 (by decide), fun a ha => ?_⟩
  exact Memory.read_writeBytes_outside hwf hfit (ha.imp_right Nat.succ_le_of_lt)

/-! ### FX55 and FX65 (R124, R125) -/

/-- Settles O38: in range, the memory of `s` is written with the block of registers at `I`. -/
theorem storeRangeCopiesRegisters : Obligations.StoreRangeCopiesRegisters := by
  intro s x hwf
  refine ⟨fun h => ?_, fun h => raises_addressOutOfRange rfl (Nat.succ_ne_zero _) (Nat.succ_lt_succ h)⟩
  have hrange : s.i.toNat + rangeCount x ≤ memSize := Nat.succ_le_succ h
  have hlen : (s.firstRegisters x).length = x.toNat + 1 := s.firstRegisters_length x
  have hfit : s.i.toNat + (s.firstRegisters x).length ≤ memSize := hlen ▸ hrange
  refine ⟨_, exec_ldStore_inRange hrange, rfl, s.indexAfterRange_eq x, fun r hr => ?_, fun a ha => ?_⟩
  · have hin : r.toNat < (s.firstRegisters x).length := hlen ▸ Nat.lt_succ_of_le hr
    exact (Memory.read_writeBytes_inside hwf hfit hin).trans (s.firstRegisters_getElem x r hin)
  · exact Memory.read_writeBytes_outside hwf hfit (hlen ▸ ha.imp_right Nat.succ_le_of_lt)

theorem exec_ldLoad_inRange {s : State} {x : Nibble} (h : s.i.toNat + rangeCount x ≤ memSize) :
    exec (.ldLoad x) s = .next (effect (.ldLoad x) s) := withRange_inRange (.inr h) _

theorem getV_effect_ldLoad (s : State) (x r : Nibble) : (effect (.ldLoad x) s).getV r =
    if r.toNat ≤ x.toNat then s.mem.read (s.i.toNat + r.toNat) else s.getV r := by
  simp only [← Nat.lt_succ_iff]
  exact loadRegisters_getElem s.mem s.i.toNat s.v (rangeCount x) r.toNat x.isLt r.isLt

/-- Settles O39: in range, the registers of `s` are loaded one by one from `I`. -/
theorem loadRangeCopiesMemory : Obligations.LoadRangeCopiesMemory := by
  intro s x
  refine ⟨fun h => ?_, fun h => raises_addressOutOfRange rfl (Nat.succ_ne_zero _) (Nat.succ_lt_succ h)⟩
  exact ⟨_, exec_ldLoad_inRange (Nat.succ_le_succ h), rfl, s.indexAfterRange_eq x, getV_effect_ldLoad s x⟩

/-- Settles O40: the load reads each register's byte where the store put it, `I` being the same. -/
theorem loadRangeUndoesStoreRange : Obligations.LoadRangeUndoesStoreRange := by
  intro s t u x v hwf hrange hstore hload r hr
  obtain ⟨t', ht, -, -, hstored, -⟩ := (storeRangeCopiesRegisters s x hwf).1 hrange
  cases ht.symm.trans hstore
  obtain ⟨u', hu, -, -, hloaded⟩ := (loadRangeCopiesMemory { t with v := v, i := s.i } x).1 hrange
  cases hu.symm.trans hload
  calc u.getV r = t.mem.read (s.i.toNat + r.toNat) := (hloaded r).trans (if_pos hr)
    _ = s.getV r := hstored r hr

end Sys2Proof.Machine
end

section
/-! PROOF. The frame buffer (43_graphics.md, R130 to R132): the pixels a sprite covers, one draw, then two draws of the
same sprite, and CLS. -/

namespace Sys2Proof.Machine

/-! ### The pixels a sprite covers (R132) -/

/-- DRW toggles the pixels its sprite covers, and its collision flag tells whether one of them was on. -/
theorem State.drawn_toggles_covered (s : State) (x y n : Nibble) :
    Toggled (SpriteCovers s x y n) (s.fb, false) (s.drawn x y n) := s.drawn_toggled x y n

theorem State.drawn_collision_iff (s : State) (x y n : Nibble) :
    (s.drawn x y n).2 = true ↔ ∃ py px, SpriteCovers s x y n py px ∧ s.fb.pixel py px = true :=
  (s.drawn_toggles_covered x y n).flag.trans (or_iff_right Bool.false_ne_true)

/-- What a sprite covers depends on its coordinates, `I` and `MEM` only. -/
theorem spriteCovers_congr {s t : State} {x y : Nibble} (hx : t.getV x = s.getV x) (hy : t.getV y = s.getV y)
    (hi : t.i = s.i) (hmem : t.mem = s.mem) (n : Nibble) : SpriteCovers t x y n = SpriteCovers s x y n := by
  unfold SpriteCovers
  rw [hx, hy, hi, hmem]

/-- Toggling the same pixels a second time leaves every pixel as it was, whatever the flag is set to in between. -/
theorem Toggled.cancel {P : Fin 32 → Fin 64 → Prop} {a b c : FrameBuffer × Bool} {flag : Bool} (hab : Toggled P a b)
    (hbc : Toggled P (b.1, flag) c) : c.1 = a.1 := by
  refine FrameBuffer.ext_pixel fun py px => ?_
  by_cases hP : P py px
  · rw [hbc.on py px hP, hab.on py px hP, Bool.not_not]
  · rw [hbc.off py px hP, hab.off py px hP]

/-! ### DRW (R130) -/

theorem flagByte_eq_one_iff (c : Bool) : flagByte c = 1 ↔ c = true := by cases c <;> decide

theorem getV_effect_drw_flag (s : State) (x y n : Nibble) :
    (effect (.drw x y n) s).getV 0xF#4 = flagByte (s.drawn x y n).2 := s.getV_setV_same 0xF#4 _

theorem getV_effect_drw {r : Nibble} (hr : r ≠ 0xF#4) (s : State) (x y n : Nibble) :
    (effect (.drw x y n) s).getV r = s.getV r := getV_effect hr

theorem exec_drw_inRange {s : State} {n : Nibble} (h : n = 0 ∨ s.i.toNat + n.toNat - 1 ≤ 0xFFF) (x y : Nibble) :
    exec (.drw x y n) s = .next (effect (.drw x y n) s) := exec_of_noFault (faultOf_drw_eq_none.mpr h)

/-- Settles O42: in range, the effect toggles the covered pixels and stores the collision flag in VF. -/
theorem drawXorsTheSprite : Obligations.DrawXorsTheSprite := by
  intro s x y n
  refine ⟨fun hrange => ?_, fun hn hbad => ?_⟩
  · have htoggled := s.drawn_toggles_covered x y n
    have hcollision := s.drawn_collision_iff x y n
    refine ⟨_, exec_drw_inRange hrange x y, rfl, htoggled.on, htoggled.off, fun hhit => ?_, fun hmiss => ?_,
      fun r hr => getV_effect_drw hr s x y n⟩
    · rw [getV_effect_drw_flag, hcollision.mpr hhit, flagByte_true]
    · have hclear : (s.drawn x y n).2 = false := by
        refine Bool.eq_false_iff.mpr fun hflag => ?_
        obtain ⟨py, px, hcovered, hon⟩ := hcollision.mp hflag
        exact Bool.false_ne_true ((hmiss py px hcovered).symm.trans hon)
      rw [getV_effect_drw_flag, hclear, flagByte_false]
  · have h0 : n.toNat ≠ 0 := fun h => hn (BitVec.eq_of_toNat_eq h)
    have hover : memSize < s.i.toNat + n.toNat := by rw [memSize]; omega
    exact raises_addressOutOfRange rfl h0 hover

/-- Settles O43: the first draw keeps the coordinates, `I` and memory, so that both toggle the same pixels. -/
theorem drawingTwiceRestoresTheFrame : Obligations.DrawingTwiceRestoresTheFrame := by
  intro s x y n hx hy hrange
  let t := effect (.drw x y n) s
  have hsame : SpriteCovers t x y n = SpriteCovers s x y n :=
    spriteCovers_congr (getV_effect_drw hx s x y n) (getV_effect_drw hy s x y n) rfl rfl n
  have hsecond : Toggled (SpriteCovers s x y n) (t.fb, false) (t.drawn x y n) := hsame ▸ t.drawn_toggles_covered x y n
  refine ⟨t, effect (.drw x y n) t, exec_drw_inRange hrange x y, exec_drw_inRange (s := t) hrange x y,
    (s.drawn_toggles_covered x y n).cancel hsecond, ?_⟩
  rw [getV_effect_drw_flag, flagByte_eq_one_iff, t.drawn_collision_iff, hsame]

/-! ### CLS (R131) -/

/-- Settles O44: CLS has no fault, and the frame buffer of its effect is the clear one. -/
theorem clsClearsTheFrame : Obligations.ClsClearsTheFrame :=
  fun _ => ⟨_, exec_of_noFault rfl, rfl, FrameBuffer.pixel_clear⟩

end Sys2Proof.Machine
end

section
/-! PROOF. Key input (44_input.md, R140 to R142): SKP and SKNP on the level of a key, then FX0A with and without a new
key. -/

namespace Sys2Proof.Machine

/-! ### The key skips (R140, R141) -/

theorem State.keyDown_eq (s : State) (x : Nibble) : s.keyDown x = s.key.getLsbD ((s.getV x).toNat % 16) := by
  rw [State.keyDown, lowNibble_toNat]

/-- Settles O45: both are `skipIf`, on the level of the key and on its complement. -/
theorem keySkipsTestTheSample : Obligations.KeySkipsTestTheSample := by
  intro s x
  have hdown : s.keyDown x = true ↔ s.key.getLsbD ((s.getV x).toNat % 16) = true := by rw [s.keyDown_eq]
  have hup : (!s.keyDown x) = true ↔ s.key.getLsbD ((s.getV x).toNat % 16) = false := by
    rw [Bool.not_eq_true', s.keyDown_eq]
  refine ⟨?_, ?_⟩
  · exact congrArg Host.Outcome.next (s.skipIf_eq_ite hdown)
  · exact congrArg Host.Outcome.next (s.skipIf_eq_ite hup)

/-! ### Wait-for-key (R142) -/

theorem State.newKeys_ne_zero (s : State) :
    s.newKeys ≠ 0 ↔ ∃ k < 16, s.key.getLsbD k = true ∧ s.keyPrev.getLsbD k = false := by
  rw [ne_eq, s.newKeys_eq_zero]
  simp

/-- The key that FX0A stores, when some key is new. -/
def State.pickedKey (s : State) : Nibble := pickKey s.params.keyPick s.newKeys

theorem exec_ldVxK_of_newKey {s : State} (h : s.newKeys ≠ 0) (x : Nibble) :
    exec (.ldVxK x) s = .next (s.setV x (BitVec.ofNat 8 s.pickedKey.toNat)).advance := by
  rw [exec, execLdVxK, if_neg h, BitVec.ofNat_toNat, State.pickedKey]

theorem exec_ldVxK_of_noNewKey {s : State} (h : s.newKeys = 0) (x : Nibble) : exec (.ldVxK x) s = .next s :=
  (exec_of_noFault rfl).trans (congrArg _ (effect_ldVxK_of_noNewKey h x))

/-- The key picked is new, whatever `KEY_PICK` is. -/
theorem State.pickedKey_isNew {s : State} (h : s.newKeys ≠ 0) :
    s.key.getLsbD s.pickedKey.toNat = true ∧ s.keyPrev.getLsbD s.pickedKey.toNat = false :=
  ((s.newKeys_getLsbD _).mp (pickKey_mem _ h)).2

/-- By default, no key below the one picked is new. -/
theorem State.keyPrev_of_lt_pickedKey {s : State} (h : s.newKeys ≠ 0) (hlowest : s.params.keyPick = .lowest) {j : Nat}
    (hj : j < s.pickedKey.toNat) (hdown : s.key.getLsbD j = true) : s.keyPrev.getLsbD j = true := by
  have hnotNew : s.newKeys.getLsbD j = false := by
    rw [State.pickedKey, hlowest] at hj
    exact (lowestKey_spec h).2 j hj
  by_contra hup
  have hnew := (s.newKeys_getLsbD j).mpr ⟨hj.trans s.pickedKey.isLt, hdown, Bool.eq_false_iff.mpr hup⟩
  exact Bool.false_ne_true (hnotNew.symm.trans hnew)

/-- Settles O46: with a new key, one register gets the number of the key picked; without one, the effect of FX0A is
nothing. -/
theorem waitForKeyStoresANewKey : Obligations.WaitForKeyStoresANewKey := by
  intro s x
  refine ⟨fun hsome => ?_, fun hnone => exec_ldVxK_of_noNewKey (s.newKeys_eq_zero.mpr hnone) x⟩
  have hnew : s.newKeys ≠ 0 := s.newKeys_ne_zero.mpr hsome
  obtain ⟨t, hexec, hframe, hregs⟩ := exec_writes_register (exec_ldVxK_of_newKey hnew x)
  obtain ⟨hdown, hup⟩ := State.pickedKey_isNew hnew
  exact ⟨t, s.pickedKey.toNat, hexec, hframe, s.pickedKey.isLt, hdown, hup,
    fun hlowest _ => State.keyPrev_of_lt_pickedKey hnew hlowest, hregs⟩

end Sys2Proof.Machine
end

section
/-! PROOF. The timer instructions (45_timers.md, R150 to R152): FX07 reads DT, FX15 writes it, FX18 writes ST. -/

namespace Sys2Proof.Machine

/-- Settles O47: FX07 writes one register, with DT; neither FX15 nor FX18 has a fault, and the effect of each is on its
timer and `PC` alone. -/
theorem timerAccessIsDirect : Obligations.TimerAccessIsDirect := by
  intro s x
  refine ⟨?readDt, ?writeDt, ?writeSt⟩
  case readDt => exact exec_writes_register rfl
  case writeDt => exact exec_of_noFault rfl
  case writeSt => exact exec_of_noFault rfl

end Sys2Proof.Machine
end

section
/-! PROOF. Entering a fault and leaving it (60_exceptions.md, R30, R160 to R168): its causes, its precision, and the
halted core that only `Reset` moves. -/

namespace Sys2Proof.Machine

/-! ### A word of no row (R161) -/

/-- The cycle ends in step 3 when the word that it fetched is of no row (R66, R161). -/
theorem runInstruction_of_unknownWord {s : State} {w : Word} {r : DecodeReject} (hfetch : s.fetch = .ok w)
    (hdec : decodeWord w = .error r) : runInstruction s = .next (s.raise .unknownInstruction w) := by
  simp only [runInstruction, hfetch, hdec, raiseFault]

/-- Settles O11: the word at `PC` is in range, so it is the one fetched, and step 3 raises the fault. -/
theorem unknownWordFaults : Obligations.UnknownWordFaults := by
  intro s k r w hrun hev hpc hw hdec
  have hfetch : (s.started k r).fetch = .ok w :=
    (State.fetch_inRange (s := s.started k r) (Nat.le_of_succ_le_succ hpc)).trans (congrArg _ hw.symm)
  exact (step_cycle hrun hev).trans (runInstruction_of_unknownWord hfetch hdec)

/-! ### Precision (R165) -/

/-- When steps 2 to 5 leave the core halted, they have raised a fault and done nothing else. -/
theorem runInstruction_halts {s t : State} (hrun : s.fault = .running) (h : runInstruction s = .next t)
    (hhalt : t.fault ≠ .running) : ∃ k info, t = s.raise k info := by
  rcases runInstruction_cases h with ⟨-, rfl⟩ | ⟨w, -, ⟨-, rfl⟩ | ⟨i, u, -, hexec, rfl⟩⟩
  · exact ⟨_, _, rfl⟩
  · exact ⟨_, _, rfl⟩
  · rw [State.latchKeys_fault] at hhalt
    rw [State.latchKeys_halted hhalt]
    rcases exec_cases hexec with ⟨k, info, -, rfl⟩ | ⟨-, rfl⟩
    · exact ⟨k, info, rfl⟩
    · exact absurd hrun hhalt

/-- Settles O50: after step 1 a cycle that ends halted raises its fault and does nothing else. -/
theorem faultsArePrecise : Obligations.FaultsArePrecise := by
  intro s t k r hrun hev hstep hhalt
  rw [step_cycle hrun hev] at hstep
  obtain ⟨kind, info, rfl⟩ := runInstruction_halts (s := s.started k r) hrun hstep hhalt
  rfl

/-! ### Causes (R160 to R164) -/

/-- The kind of the fault that an instruction raises at `s` (R160). -/
def faultKind (i : Instr) (s : State) : Option FaultKind := (faultOf i s).map Prod.fst

/-- The kind of fault in which an instruction leaves a running core is the one it raises. -/
theorem fault_eq_iff {i : Instr} {s t : State} {k : FaultKind} (hrun : s.fault = .running) (hexec : exec i s = .next t)
    (hk : k ≠ .running) : t.fault = k ↔ faultKind i s = some k := by
  rw [faultKind]
  rcases exec_cases hexec with ⟨k', info, hf, rfl⟩ | ⟨hf, rfl⟩
  · rw [hf, Option.map_some, Option.some_inj, State.raise_fault]
  · have hfault : (effect i s).fault = .running := hrun
    simp only [hf, hfault, Option.map_none, reduceCtorEq, hk.symm]

/-- The guard's only fault is AddressOutOfRange, raised when some byte from `I` is out of range (R43, R126). -/
theorem State.rangeFault_kind (s : State) (n : Nat) :
    (s.rangeFault n).map Prod.fst = if n = 0 ∨ s.i.toNat + n ≤ memSize then none else some .addressOutOfRange := by
  rw [State.rangeFault, rangeError]
  split <;> rfl

/-- Only SYS raises UnknownInstruction when it is executed (R80, R161). -/
theorem faultKind_eq_unknownInstruction {i : Instr} {s : State} :
    faultKind i s = some .unknownInstruction ↔ (∃ nnn, i = .sys nnn) ∧ s.params.sysIsNop = false := by
  cases i with
  | sys nnn => simp [faultKind, faultOf]
  | drw x y n | ldB x | ldStore x | ldLoad x => simp [faultKind, faultOf, State.rangeFault_kind]
  | _ => simp [faultKind, faultOf]

/-- Only CALL raises StackOverflow (R162). -/
theorem faultKind_eq_stackOverflow {i : Instr} {s : State} :
    faultKind i s = some .stackOverflow ↔ (∃ nnn, i = .call nnn) ∧ s.sp.val = 24 := by
  cases i with
  | call nnn => simp [faultKind, faultOf]
  | drw x y n | ldB x | ldStore x | ldLoad x => simp [faultKind, faultOf, State.rangeFault_kind]
  | _ => simp [faultKind, faultOf]

/-- Only RET raises StackUnderflow (R163). -/
theorem faultKind_eq_stackUnderflow {i : Instr} {s : State} :
    faultKind i s = some .stackUnderflow ↔ i = .ret ∧ s.sp.val = 0 := by
  cases i with
  | ret => simp [faultKind, faultOf]
  | drw x y n | ldB x | ldStore x | ldLoad x => simp [faultKind, faultOf, State.rangeFault_kind]
  | _ => simp [faultKind, faultOf]

/-- The guard raises AddressOutOfRange exactly when some byte from `I` is out of range. -/
theorem State.rangeFault_kind_eq_addressOutOfRange {s : State} {n : Nat} :
    (s.rangeFault n).map Prod.fst = some .addressOutOfRange ↔ n ≠ 0 ∧ 0x1000 < s.i.toNat + n := by
  rw [State.rangeFault_kind, memSize, ite_eq_right_iff]
  simp only [reduceCtorEq, imp_false, not_or, Nat.not_le, ne_eq]

/-- Only the instructions that reach memory through `I` raise AddressOutOfRange when they are executed (R126, R164). -/
theorem faultKind_eq_addressOutOfRange {i : Instr} {s : State} : faultKind i s = some .addressOutOfRange ↔
    (∃ x, i = .ldB x ∧ s.i.toNat > 0xFFD) ∨
    (∃ x : Nibble, (i = .ldStore x ∨ i = .ldLoad x) ∧ s.i.toNat + x.toNat > 0xFFF) ∨
    (∃ x y n : Nibble, i = .drw x y n ∧ n ≠ 0 ∧ s.i.toNat + n.toNat - 1 > 0xFFF) := by
  cases i with
  | ldB x =>
    have hrange : 3 ≠ 0 ∧ 0x1000 < s.i.toNat + 3 ↔ s.i.toNat > 0xFFD := by omega
    rw [faultKind, faultOf, State.rangeFault_kind_eq_addressOutOfRange, hrange]
    simp
  | ldStore x | ldLoad x =>
    have hrange : rangeCount x ≠ 0 ∧ 0x1000 < s.i.toNat + rangeCount x ↔ s.i.toNat + x.toNat > 0xFFF := by
      rw [rangeCount]
      omega
    rw [faultKind, faultOf, State.rangeFault_kind_eq_addressOutOfRange, hrange]
    simp
  | drw x y n =>
    have hn : n.toNat = 0 ↔ n = 0 := BitVec.toNat_inj (y := 0#4)
    have hrange : n.toNat ≠ 0 ∧ 0x1000 < s.i.toNat + n.toNat ↔ n ≠ 0 ∧ s.i.toNat + n.toNat - 1 > 0xFFF :=
      and_congr hn.not (by omega)
    rw [faultKind, faultOf, State.rangeFault_kind_eq_addressOutOfRange, hrange]
    simp
  | _ => simp [faultKind, faultOf]

/-- Settles O49: the kind of fault an instruction leaves is the one it raises, and each kind has its own cause. -/
theorem faultsHaveExactlyTheirCauses : Obligations.FaultsHaveExactlyTheirCauses := by
  intro i s t hrun hexec
  refine ⟨?unknown, ?overflow, ?underflow, ?address⟩
  case unknown => exact (fault_eq_iff hrun hexec (by decide)).trans faultKind_eq_unknownInstruction
  case overflow => exact (fault_eq_iff hrun hexec (by decide)).trans faultKind_eq_stackOverflow
  case underflow => exact (fault_eq_iff hrun hexec (by decide)).trans faultKind_eq_stackUnderflow
  case address => exact (fault_eq_iff hrun hexec (by decide)).trans faultKind_eq_addressOutOfRange

/-! ### The halted core (R30, R166) -/

/-- With an event listed, a step is that event on the state it is taken from. -/
theorem step_of_pending {s : State} {e : Event} {es : List Event} (h : s.pending = e :: es) :
    step s = runEvent e s.taken := by
  rw [step_eq, State.nextEvent_cons h]
  rfl

/-- A run goes on from the state that its first step answers. -/
theorem run_succ {s t : State} (h : step s = .next t) (n : Nat) :
    Host.Core.run core (n + 1) s = Host.Core.run core n t := by
  have hcore : core.step s = .next t := h
  simp only [Host.Core.run, hcore]

/-- A step of a halted core uses up its event and does nothing else, unless that event is `Reset` (log 11). -/
theorem step_halted {s : State} (hhalt : s.fault ≠ .running) (hev : s.nextEvent ≠ .reset) : step s = .next s.taken :=
  runEvent_halted (s.takeEvent.halted_iff.mpr hhalt) hev

/-- A `Reset` comes next only if it is the first event listed. -/
theorem State.nextEvent_ne_reset {s : State} {n : Nat} (h : Event.reset ∉ s.pending.take (n + 1)) :
    s.nextEvent ≠ .reset := by
  intro hreset
  rcases s.nextEvent_cases with ⟨es, hes⟩ | ⟨-, k, r, hcycle⟩
  · rw [hes, hreset] at h
    exact h List.mem_cons_self
  · exact nomatch hreset.symm.trans hcycle

/-- Settles O12: by induction on the number of events; each is not `Reset`, so the halted core only uses it up. -/
theorem faultStaysUntilReset : Obligations.FaultStaysUntilReset := by
  intro n
  induction n with
  | zero => exact fun s _ _ => rfl
  | succ n ih =>
    intro s hhalt hnoReset
    have htail : (s.pending.take (n + 1)).tail = s.taken.pending.take n := List.tail_take_eq_take_tail ..
    have hrest : Event.reset ∉ s.taken.pending.take n := htail ▸ fun hmem => hnoReset (List.mem_of_mem_tail hmem)
    rw [run_succ (step_halted hhalt (State.nextEvent_ne_reset hnoReset)), ih s.taken hhalt hrest]
    simp only [State.taken, List.drop_tail, Nat.add_assoc, Nat.add_comm 1 n]

/-! ### The random byte (R184) -/

/-- The random byte of the cycle replaced. -/
def State.setRndIn (r : Byte) (s : State) : State := { s with rndIn := r }

theorem effect_setRndIn {i : Instr} (s : State) (r : Byte) (hrnd : ∀ x nn, i ≠ .rnd x nn) :
    effect i (s.setRndIn r) = (effect i s).setRndIn r := by
  cases i with
  | rnd x nn => exact absurd rfl (hrnd x nn)
  | _ => rfl

/-- Settles O55: no fault and, but for RND, no effect reads the random byte. -/
theorem randomByteMattersToRndOnly : Obligations.RandomByteMattersToRndOnly := by
  intro i s t r hrnd hexec
  exact exec_update (State.setRndIn r) hexec (faultOf_congr i rfl rfl rfl rfl) (fun _ _ => rfl)
    (effect_setRndIn s r hrnd)

end Sys2Proof.Machine
end

section
/-! PROOF. The timers between instructions (45_timers.md, R176 to R178), and the collaborators' side: `DirtyClear` and
the ports (R179, R181, R183). -/

namespace Sys2Proof.Machine

/-! ### One tick, one pulse (R176, R177) -/

/-- Settles O16: a running core's tick is `countTimers`, which writes the two timers; a halted core's is nothing. -/
theorem tickCountsBothTimersDown : Obligations.TickCountsBothTimersDown := by
  refine fun s => ⟨fun hrun => ?_, State.tick_halted⟩
  rw [State.tick_running hrun]
  exact ⟨rfl, countDown_toNat s.dt, countDown_toNat s.st⟩

/-- Settles O17: the listed event is a pulse, whose two branches on a running core are the two clauses. -/
theorem pulseDrivesThePrescaler : Obligations.PulseDrivesThePrescaler := by
  intro s es hrun hpending
  have hrun' : s.taken.fault = .running := hrun
  have hstep : step s = .next (s.taken.pulse Config.prescaleDiv) := step_of_pending hpending
  rw [hstep, State.pulse_running hrun', State.tick_running hrun']
  exact ⟨fun hlast => congrArg _ (if_pos hlast), fun hearlier => congrArg _ (if_neg hearlier)⟩

/-! ### `AdvanceTime` (R178) -/

/-- A timer that was at `t` and has been counted down `q` times. -/
def countedDown (t : Byte) (q : Nat) : Byte := BitVec.ofNat 8 (t.toNat - q)

theorem countedDown_toNat (t : Byte) (q : Nat) : (countedDown t q).toNat = t.toNat - q :=
  Nat.mod_eq_of_lt ((Nat.sub_le _ _).trans_lt t.isLt)

theorem countedDown_zero (t : Byte) : countedDown t 0 = t := by
  rw [countedDown, Nat.sub_zero, BitVec.ofNat_toNat, BitVec.setWidth_eq]

theorem countDown_countedDown (t : Byte) (q : Nat) : countDown (countedDown t q) = countedDown t (q + 1) :=
  BitVec.eq_of_toNat_eq (by rw [countDown_toNat, countedDown_toNat, countedDown_toNat, Nat.sub_sub])

/-- The state after `m` pulses since `PRESC` was last 0 and the timers were as in `s` (R176). -/
def State.afterPulses (div m : Nat) (s : State) : State :=
  { s with dt := countedDown s.dt (m / div), st := countedDown s.st (m / div), presc := m % div }

/-- One pulse more: the last of `div` brings the tick and starts `PRESC` again, any other is only counted. -/
theorem State.pulse_afterPulses {s : State} (hrun : s.fault = .running) {div : Nat} (hdiv : 0 < div) (m : Nat) :
    (s.afterPulses div m).pulse div = s.afterPulses div (m + 1) := by
  rw [State.pulse_running (s := s.afterPulses div m) hrun]
  have hm := Nat.mod_add_div m div
  have hlt := Nat.mod_lt m hdiv
  split
  case isTrue hlast =>
    have hlast : m % div = div - 1 := hlast
    obtain ⟨hq, hr⟩ : (m + 1) / div = m / div + 1 ∧ (m + 1) % div = 0 :=
      (Nat.div_mod_unique hdiv).mpr ⟨by rw [Nat.mul_succ]; omega, hdiv⟩
    simp only [State.afterPulses, State.countTimers, countDown_countedDown, hq, hr]
  case isFalse hearlier =>
    have hearlier : m % div ≠ div - 1 := hearlier
    obtain ⟨hq, hr⟩ : (m + 1) / div = m / div ∧ (m + 1) % div = m % div + 1 :=
      (Nat.div_mod_unique hdiv).mpr ⟨by omega, by omega⟩
    simp only [State.afterPulses, hq, hr]

/-- `n` pulses of a running core: `PRESC` already counts the pulses since the last tick. -/
theorem State.advanceTime_running {s : State} (hrun : s.fault = .running) {div : Nat} (hpresc : s.presc < div)
    (n : Nat) : State.advanceTime div n s = s.afterPulses div (s.presc + n) := by
  induction n with
  | zero =>
    simp only [State.advanceTime, State.afterPulses, Nat.add_zero, Nat.div_eq_of_lt hpresc, Nat.mod_eq_of_lt hpresc,
      countedDown_zero]
  | succ n ih => rw [State.advanceTime, ih, State.pulse_afterPulses hrun (Nat.zero_lt_of_lt hpresc), Nat.add_assoc]

/-- `n` listed pulses are `AdvanceTime(n)`. -/
theorem run_timebasePulses (n : Nat) (s : State) (es : List Event)
    (hpending : s.pending = List.replicate n .timebasePulse ++ es) : Host.Core.run core n s =
      .next { State.advanceTime Config.prescaleDiv n s with pending := es, freeInputs := s.freeInputs + n } := by
  induction n generalizing s with
  | zero =>
    subst hpending
    rfl
  | succ n ih =>
    have hstep : step s = .next (s.taken.pulse Config.prescaleDiv) := step_of_pending hpending
    have hpulse : s.taken.pulse Config.prescaleDiv =
        { s.pulse Config.prescaleDiv with pending := s.pending.tail, freeInputs := s.freeInputs + 1 } :=
      State.pulse_congr ..
    have hrest : s.pending.tail = List.replicate n .timebasePulse ++ es := by rw [hpending]; rfl
    rw [run_succ hstep, hpulse, ih _ hrest, State.advanceTime_congr, State.advanceTime_succ]
    simp only [Nat.add_assoc, Nat.add_comm 1 n]

/-- Settles O18: the count is that of `afterPulses`, from the pulses that `PRESC` already holds; a halted core's timers
are frozen; and each listed pulse is one of the `n`. -/
theorem advanceTimeCarriesTheRemainder : Obligations.AdvanceTimeCarriesTheRemainder := by
  refine ⟨fun div n s => ⟨fun hrun hpresc => ?running, fun hhalt => State.advanceTime_halted hhalt div n⟩,
    run_timebasePulses⟩
  exact ⟨_, State.advanceTime_running hrun hpresc n, rfl, rfl, countedDown_toNat _ _, countedDown_toNat _ _⟩

/-! ### `DirtyClear` and the ports (R179, R181, R183) -/

/-- Settles O20: the listed event is `DirtyClear`, which a running core answers with `setClean`. -/
theorem dirtyClearClearsOnlyDirty : Obligations.DirtyClearClearsOnlyDirty := by
  intro s es hrun hpending
  exact (step_of_pending hpending).trans (congrArg _ (State.clearDirty_running (s := s.taken) hrun))

/-- The kind of fault that a 3-bit code stands for (R30). -/
def FaultKind.ofCode (c : BitVec 3) : FaultKind :=
  if c = 1 then .unknownInstruction else if c = 2 then .stackOverflow else if c = 3 then .stackUnderflow
  else if c = 4 then .addressOutOfRange else .running

theorem FaultKind.ofCode_code : Function.LeftInverse FaultKind.ofCode FaultKind.code
  | .running | .unknownInstruction | .stackOverflow | .stackUnderflow | .addressOutOfRange => rfl

/-- Settles O21: no two kinds of fault share a code, so `FAULT` is of a kind exactly when the port shows its code. -/
theorem portsShowTheState : Obligations.PortsShowTheState := by
  intro s
  have hcode (k : FaultKind) : s.fault = k ↔ s.faultCode = k.code := FaultKind.ofCode_code.injective.eq_iff.symm
  refine ⟨rfl, bne_iff_ne, rfl, ?_, hcode _, hcode _, hcode _, hcode _, hcode _⟩
  exact s.halted_iff.trans (hcode .running).not

end Sys2Proof.Machine
end

section
/-! PROOF. Which event a step takes (00_scope.md R2), then `Reset` and `Load` (70_reset_and_hazards.md, R190 to R192): the
state that a reset leaves, and a block that is written whole or not at all. -/

namespace Sys2Proof.Machine

/-! ### The next event -/

theorem State.nextEvent_nil {s : State} (h : s.pending = []) :
    s.nextEvent = .cycle (Config.freeKeyIn s.freeInputs) (Config.freeRndIn s.freeInputs) := by
  rw [State.nextEvent, h]

/-- Settles O8: a list of events to come has a head or is empty, and `nextEvent` answers by this alone. -/
theorem nextEventIsTheOldestListed : Obligations.NextEventIsTheOldestListed :=
  fun _ => ⟨fun _ _ => State.nextEvent_cons, State.nextEvent_nil⟩

/-! ### `Reset` (R190, R191) -/

/-- Settles O13: the listed event is `Reset`, which carries over the three fields that are no element of the core. -/
theorem resetEventResetsTheCore : Obligations.ResetEventResetsTheCore := by
  intro s es hpending
  calc step s = .next s.taken.resetCore := step_of_pending hpending
    _ = .next { State.reset with
          params := s.params, pending := s.pending.tail, freeInputs := s.freeInputs + 1 } := rfl
    _ = .next { State.reset with params := s.params, pending := es, freeInputs := s.freeInputs + 1 } := by
          rw [hpending, List.tail_cons]

theorem State.getV_reset (r : Nibble) : State.reset.getV r = 0 := Vector.getElem_replicate r.isLt

theorem State.reset_stack_getElem (k : Nat) (h : k < 24) : State.reset.stack[k] = 0 := Vector.getElem_replicate h

/-- Settles O14: register by register, entry by entry and pixel by pixel for the three vectors, and every other value read
off `State.reset`. -/
theorem resetValuesAreThoseListed : Obligations.ResetValuesAreThoseListed :=
  ⟨rfl, State.getV_reset, rfl, rfl, State.reset_stack_getElem, rfl, rfl, rfl, FrameBuffer.pixel_clear, rfl, fun _ => rfl,
    rfl, rfl, rfl, rfl, rfl, rfl⟩

/-- Settles O58: the reset state is what a reset makes of it, and a core that has just been reset has the invariant. -/
theorem resetHasTheInvariant : Obligations.ResetHasTheInvariant := inv_resetCore State.reset

/-! ### `Load` (R192) -/

section
variable {s : State} {addr : Nat} {bytes : List Byte}

/-- Before the first cycle a block that fits is written whole. -/
theorem load_of_fits (hrun : s.fault = .running) (hopen : s.loadOpen = true) (hfit : addr + bytes.length ≤ memSize) :
    load addr bytes s = .next (s.setMem (s.mem.writeBytes addr bytes)) := by
  rw [load_running hrun, if_pos hopen, if_pos hfit]

/-- Of a block that does not fit, no byte is written. -/
theorem load_of_tooLong (hrun : s.fault = .running) (hopen : s.loadOpen = true)
    (hlong : memSize < addr + bytes.length) : load addr bytes s = .next s := by
  rw [load_running hrun, if_pos hopen, if_neg (Nat.not_le.mpr hlong)]

/-- After the first cycle `Load` is no move (U19; log 5). -/
theorem load_refused (hrun : s.fault = .running) (hclosed : s.loadOpen = false) :
    load addr bytes s = .refused .loadAfterFirstCycle := by
  rw [load_running hrun, if_neg (ne_true_of_eq_false hclosed)]

end

/-- Settles O15: the listed event is `Load`, and a block that fits reads back inside and leaves the rest as it was. -/
theorem loadWritesAllOrNothing : Obligations.LoadWritesAllOrNothing := by
  intro s addr bytes es hwf hrun hpending
  have hstep : step s = load addr bytes s.taken := step_of_pending hpending
  refine ⟨fun hopen hfit => ?fits, fun hopen hlong => ?tooLong, fun hclosed => ?refused⟩
  case fits =>
    exact ⟨_, hstep.trans (load_of_fits (s := s.taken) hrun hopen hfit), rfl,
      fun _ => Memory.read_writeBytes_inside hwf hfit, fun _ => Memory.read_writeBytes_outside hwf hfit⟩
  case tooLong => exact hstep.trans (load_of_tooLong (s := s.taken) hrun hopen hlong)
  case refused => exact hstep.trans (load_refused (s := s.taken) hrun hclosed)

end Sys2Proof.Machine
end

section
/-! PROOF. The window of pulses in which a timer expires (R196). -/

namespace Sys2Proof.Machine

/-- `q * div` pulses bring `q` ticks, wherever in its count the prescaler stands (R176, R178). -/
theorem ticks_of_mul_pulses {p div : Nat} (h : p < div) (q : Nat) : (p + q * div) / div = q := by
  rw [Nat.add_mul_div_right p q (Nat.zero_lt_of_lt h), Nat.div_eq_of_lt h, Nat.zero_add]

theorem countedDown_eq_zero_iff {t : Byte} {q : Nat} : countedDown t q = 0 ↔ t.toNat ≤ q := by
  rw [← BitVec.toNat_inj, countedDown_toNat]
  exact Nat.sub_eq_zero_iff_le

/-- A timer above zero is still above zero one tick before its value is counted down, and is zero after that tick. -/
theorem countedDown_window {t : Byte} (h : t ≠ 0) : countedDown t (t.toNat - 1) ≠ 0 ∧ countedDown t t.toNat = 0 := by
  have hpos : t.toNat ≠ 0 := fun h0 => h (BitVec.eq_of_toNat_eq h0)
  refine ⟨fun hzero => ?_, countedDown_eq_zero_iff.mpr le_rfl⟩
  have hle := countedDown_eq_zero_iff.mp hzero
  omega

/-- Settles O19: `q * div` pulses are `q` ticks, and each timer is counted down once by every tick. -/
theorem timerExpiresWithinItsWindow : Obligations.TimerExpiresWithinItsWindow := by
  intro div s hrun hpresc
  simp only [State.advanceTime_running hrun hpresc, State.afterPulses, ticks_of_mul_pulses hpresc]
  exact ⟨countedDown_window, countedDown_window⟩

end Sys2Proof.Machine
end

section
/-! PROOF. Running a given word: the word that `withFetchWord` places (log 13), the finished run (R194), and that whatever
instruction is run answers a next state (R165, log 10). -/

namespace Sys2Proof.Machine

/-! ### The placed word (log 13) -/

theorem Event.isCycle_iff {e : Event} : e.isCycle = true ↔ ∃ k r, e = .cycle k r := by
  cases e <;> simp [Event.isCycle]

/-- Placing a word drops the events before the next cycle; with none listed the driver issues one. -/
theorem State.nextEvent_placeWord (s : State) (w : Word) : ∃ k r, (s.placeWord w).nextEvent = .cycle k r := by
  rcases (s.placeWord w).nextEvent_cases with ⟨es, hes⟩ | ⟨-, hcycle⟩
  · have hhead := List.head?_dropWhile_not (fun e : Event => !e.isCycle) s.pending
    have hes : s.pending.dropWhile (fun e => !e.isCycle) = (s.placeWord w).nextEvent :: es := hes
    rw [hes] at hhead
    exact Event.isCycle_iff.mp (by simpa using hhead)
  · exact hcycle

/-- The two bytes of the placed word are read back where they were stored, high byte first (R44, R45). -/
theorem State.fetch_placeWord {s : State} (hwf : s.mem.wf = true) (w : Word) : (s.placeWord w).fetch = .ok w := by
  have hpc := s.fetchablePc_le
  have hfit : s.fetchablePc.toNat + [highByte w, lowByte w].length ≤ memSize := Nat.add_le_add_right hpc 2
  have hread {j : Nat} (hj : j < 2) : (s.placeWord w).mem.read (s.fetchablePc.toNat + j) =
      [highByte w, lowByte w][j] := Memory.read_writeBytes_inside hwf hfit hj
  have hhigh : (s.placeWord w).mem.read s.fetchablePc.toNat = highByte w := hread (j := 0) (by decide)
  have hlow : (s.placeWord w).mem.read (s.fetchablePc.toNat + 1) = lowByte w := hread (j := 1) (by decide)
  calc (s.placeWord w).fetch
      = .ok (wordOfBytes ((s.placeWord w).mem.read s.fetchablePc.toNat)
          ((s.placeWord w).mem.read (s.fetchablePc.toNat + 1))) := State.fetch_inRange (s := s.placeWord w) hpc
    _ = .ok (wordOfBytes (highByte w) (lowByte w)) := by rw [hhigh, hlow]
    _ = .ok w := by rw [wordOfBytes_bytes]

/-- Sixteen table bits are the word itself. -/
theorem State.withFetchWord_toNat (s : State) (w : Word) : s.withFetchWord 16 w.toNat = s.placeWord w := by
  rw [State.withFetchWord, Nat.mod_eq_of_lt w.isLt, BitVec.ofNat_toNat, BitVec.setWidth_eq]

/-- Settles O22: a cycle comes next, the core runs, and step 1 of the cycle changes nothing that the fetch reads. -/
theorem placedWordIsFetchedNext : Obligations.PlacedWordIsFetchedNext := by
  intro s w hwf
  rw [State.withFetchWord_toNat]
  obtain ⟨k, r, hev⟩ := s.nextEvent_placeWord w
  exact ⟨k, r, hev, rfl, State.fetch_placeWord hwf w⟩

/-! ### The finished run (R194) -/

/-- A jump to its own address changes nothing. -/
theorem State.jump_self (s : State) : s.jump s.pc = s := rfl

/-- A cycle of a core that stands at a jump to itself does no more than latch the keys. -/
theorem runInstruction_of_finished {s : State} (h : s.finished) :
    runInstruction s = .next { s with keyPrev := s.key } := by
  obtain ⟨hrun, nnn, hpc, hfetch⟩ := h
  calc runInstruction s = finishCycle (exec (.jp nnn) s) := runInstruction_of_decodeWord hfetch (decodeWord_encode rfl)
    _ = .next (s.jump (zextAddr nnn)).latchKeys := rfl
    _ = .next { s with keyPrev := s.key } := by rw [← hpc, State.jump_self, State.latchKeys_running hrun]

/-- Settles O60: whether a run is finished depends on neither the inputs sampled nor the keys latched, and between these
its cycle does nothing. -/
theorem finishedRunStaysPut : Obligations.FinishedRunStaysPut := by
  intro s k r hfin hev
  have hstarted : (s.started k r).finished := hfin
  exact ⟨_, (step_cycle hfin.1 hev).trans (runInstruction_of_finished hstarted), rfl, hfin⟩

/-! ### Every instruction (R165) -/

/-- Settles O48: the next state is the halted one of the instruction's fault, or its effect. -/
theorem everyInstructionAnswersANextState : Obligations.EveryInstructionAnswersANextState :=
  fun i s => ⟨answer i s, exec_eq i s⟩

end Sys2Proof.Machine
end
